-- ==== Sys2Proof/Word.lean ====
section
/-! DEFINITION. The word an instruction is read from. -/

namespace Sys2Proof

/-- The widest encoding of the opcode table (`A64`, `A32`: 32 bits, 30_encoding.md R52). A `T32`
word and a word of Table H2-1 stand in it zero-extended. It is the width of an *encoding*: the
spec gives no register or address width (00_scope.md R9) and the model has none. -/
abbrev Word := BitVec 32

end Sys2Proof
end

