-- ==== Sys2Proof/Syntax.lean ====
section
/-! DEFINITION. The vocabulary of the spec (Security states, debug events, outcomes), the rows of
the opcode table as one inductive, and the steps of the agents around the PE (30_encoding.md R54). -/

namespace Sys2Proof

/-- The four Security states (10_state.md R11). -/
inductive SecurityState where
  | nonSecure | secure | realm | root
deriving DecidableEq, Repr

/-- The two Execution states the source names (10_state.md R25). No rule's outcome reads it. -/
inductive ExecutionState where
  | aarch64 | aarch32
deriving DecidableEq, Repr

/-- The priority of an Exception Catch debug event: 2 or 6 (00_scope.md R6, 60_exceptions.md R180). -/
inductive CatchPriority where
  | two | six
deriving DecidableEq, Repr

/-- The type of a breakpoint. The source names one value, Address Mismatch
(42_breakpoint_watchpoint.md R91, R98); every other type is `other`. -/
inductive BreakpointType where
  | addressMismatch | other
deriving DecidableEq, Repr

/-- The two forms of a Vector Catch exception (43_other_debug_exceptions.md R104). -/
inductive VectorCatchForm where
  | addressMatching | exceptionTrapping
deriving DecidableEq, Repr

/-- The twelve debug event types (30_encoding.md R50). -/
inductive EventType where
  | haltInstruction | softwareAccess | exceptionCatch | haltingStep | externalDebugRequest
  | resetCatch | osUnlockCatch | breakpoint | watchpoint | breakpointInstruction | softwareStep
  | vectorCatch
deriving DecidableEq, Repr

/-- A debug event as it is generated: one of the twelve types with the operand the spec gives that
type, if any (30_encoding.md R50, 42_breakpoint_watchpoint.md R98). -/
inductive Event where
  | haltInstruction
  | softwareAccess
  | exceptionCatch (p : CatchPriority)
  | haltingStep
  | externalDebugRequest
  | resetCatch
  | osUnlockCatch
  | breakpoint (t : BreakpointType)
  | watchpoint
  | breakpointInstruction
  | softwareStep
  | vectorCatch (f : VectorCatchForm)
deriving DecidableEq, Repr

/-- The row group "Breakpoint or Watchpoint debug event" (45_summary_table.md R131). -/
inductive BreakOrWatch where
  | breakpoint (t : BreakpointType)
  | watchpoint
deriving DecidableEq, Repr

/-- The row group "Other software" (45_summary_table.md R131). -/
inductive OtherSoftware where
  | softwareStep
  | breakpointInstruction
  | vectorCatch (f : VectorCatchForm)
deriving DecidableEq, Repr

/-- The row group "Other Halting" (45_summary_table.md R131). -/
inductive OtherHalting where
  | haltingStep | externalDebugRequest | resetCatch | osUnlockCatch
deriving DecidableEq, Repr

/-- The event types that can be pending: exactly those that 41_halting_debug_events.md R78 and R79
can pend (10_state.md R21). -/
inductive Pendable where
  | exceptionCatch | haltingStep | externalDebugRequest | resetCatch | osUnlockCatch
deriving DecidableEq, Repr

/-- `Pending`, the set of pended events: at most one entry per type (10_state.md R21), so one
membership bit per type, and equal sets are equal data. -/
structure Pending where
  exceptionCatch       : Bool
  haltingStep          : Bool
  externalDebugRequest : Bool
  resetCatch           : Bool
  osUnlockCatch        : Bool
deriving DecidableEq, Repr

/-- The empty set of pending events. -/
def Pending.empty : Pending := ⟨false, false, false, false, false⟩

/-- The condition vector of Table H2-1 (30_encoding.md R51): Authentication, DLK, OSLK, HDE. -/
structure Conditions where
  auth : Bool
  dlk  : Bool
  oslk : Bool
  hde  : Bool
deriving DecidableEq, Repr

/-- The outcome of a debug event (00_scope.md section 6; 40_outcomes_and_halting_allowed.md R60).
`exceptionModel` is "`debugException` or `ignored`, as the Exception model decides". -/
inductive EventOutcome where
  | enterDebugState | pended | debugException | ignored | treatedAsUndefined | exceptionModel
deriving DecidableEq, Repr

/-- The kind of an exception handed to the Exception model (60_exceptions.md R190, 10_state.md R17).
`nonDebug place` is a synchronous exception that is no debug event, at a place of the priority
list (60_exceptions.md R181). -/
inductive ExceptionKind where
  | breakpoint
  | watchpoint
  | breakpointInstruction
  | softwareStep
  | vectorCatch (f : VectorCatchForm)
  | undefinedInstruction
  | osLockWriteTrap
  | nonDebug (place : Nat)
deriving DecidableEq, Repr

/-- The class of an instruction placed in the ITR: all the spec distinguishes
(44_imprecise_entry.md R118). -/
inductive ItrInstruction where
  | memoryAccess | otherInstruction
deriving DecidableEq, Repr

/-- The general registers, the program counter and the flags (10_state.md R24). The spec gives no
count and no width of any of them (00_scope.md R9), so each is an unbounded number. -/
structure Registers where
  general : List Nat
  pc      : Nat
  flags   : Nat
deriving DecidableEq, Repr

/-- The one-bit register fields that take an UNKNOWN value at an imprecise entry
(10_state.md section 5, 44_imprecise_entry.md R119). -/
inductive ControlField where
  | hde | oslk | doubleLock | mde | mdbgen | tdosaEl3 | tdosaHyp
deriving DecidableEq, Repr

/-! ## The opcode table -/

/-- One constructor per row of spec/opcode_table.json.

A row of Table H2-1 carries the event of its row group (with the event's own operand) and one
`Bool` for every condition the row leaves at `X`, in the table's order `a` Authentication, `d` DLK,
`o` OSLK, `h` HDE: together the condition vector the event was generated under (30_encoding.md R51).
The three `HLT` rows carry their immediates, and `HLT_A32` its condition field (30_encoding.md R52). -/
inductive Instr where
  | otherSw   (e : OtherSoftware) (a d o h : Bool)
  | bwDlk     (e : BreakOrWatch) (a o h : Bool)
  | bwOslk    (e : BreakOrWatch) (a h : Bool)
  | bwNoauth  (e : BreakOrWatch) (h : Bool)
  | bwHde0    (e : BreakOrWatch)
  | bwHalt    (e : BreakOrWatch)
  | hltNoauth (d o h : Bool)
  | hltDlk    (o h : Bool)
  | hltHde0   (o : Bool)
  | hltHalt   (o : Bool)
  | ecNoauth  (p : CatchPriority) (d o h : Bool)
  | ecDlk     (p : CatchPriority) (o h : Bool)
  | ecHalt    (p : CatchPriority) (o h : Bool)
  | saNoauth  (d o h : Bool)
  | saDlk     (o h : Bool)
  | saOslk    (h : Bool)
  | saHalt    (h : Bool)
  | ohNoauth  (e : OtherHalting) (d o h : Bool)
  | ohDlk     (e : OtherHalting) (o h : Bool)
  | ohHalt    (e : OtherHalting) (o h : Bool)
  | hltA64    (imm16 : BitVec 16)
  | hltA32    (cond : BitVec 4) (imm12 : BitVec 12) (imm4 : BitVec 4)
  | hltT32    (imm6 : BitVec 6)
deriving DecidableEq, Repr

/-! ## The steps of the agents (30_encoding.md R54) -/

/-- Who writes `EDSCR.HDE`: software on the PE or the debugger (10_state.md R16). -/
inductive Agent where
  | software | debugger
deriving DecidableEq, Repr

/-- A change of one control or input, each a step of its own that takes effect at once
(20_memory.md R42). -/
inductive Control where
  /-- `write EDSCR.HDE <- v` (10_state.md R16). -/
  | hde (who : Agent) (v : Bool)
  /-- A software write of the OS Lock; `lessPrivileged` says whether it is made by software less
  privileged than the code that sets the two `TDOSA` controls (10_state.md R14, R17). -/
  | oslk (lessPrivileged : Bool) (v : Bool)
  /-- Software locks or unlocks the OS Double Lock (10_state.md R13). -/
  | doubleLock (v : Bool)
  /-- `write MDSCR_EL1.MDE <- v` (10_state.md R18). -/
  | mde (v : Bool)
  /-- `write DBGDSCRext.MDBGen <- v` (10_state.md R18). -/
  | mdbgen (v : Bool)
  /-- `write MDCR_EL3.TDOSA <- v` (10_state.md R17). -/
  | tdosaEl3 (v : Bool)
  /-- `write HDCR.TDOSA <- v` (10_state.md R17). -/
  | tdosaHyp (v : Bool)
  /-- `set SecurityState <- x` (10_state.md R11). -/
  | security (x : SecurityState)
  /-- The PE changes its Execution state (10_state.md R25). -/
  | execState (x : ExecutionState)
  /-- The authentication interface changes the input of one Security state (10_state.md R12). -/
  | auth (x : SecurityState) (v : Bool)
  /-- `set CanReachPreciseState <- v` (10_state.md R23). -/
  | precise (v : Bool)
  /-- The memory system changes the number of outstanding accesses (10_state.md R23). -/
  | outstanding (n : Nat)
deriving DecidableEq, Repr

/-- A synchronous event generated by one instruction, for `SelectSynchronous` (60_exceptions.md
R192): a debug event, or a synchronous exception that is no debug event, with its place in the
priority list (60_exceptions.md R181). -/
inductive Generated where
  | event (e : Event)
  | nonDebug (place : Nat)
deriving DecidableEq, Repr

/-- The parameter `init` (70_reset_and_hazards.md R211): one field per item of 10_state.md section 6
that the spec leaves open, and one per other register the spec names. -/
structure Init where
  halted               : Bool
  security             : SecurityState
  execState            : ExecutionState
  authNs               : Bool
  authS                : Bool
  authRl               : Bool
  authRt               : Bool
  osDoubleLockLocked   : Bool
  oslk                 : Bool
  hde                  : Bool
  mde                  : Bool
  mdbgen               : Bool
  tdosaEl3             : Bool
  tdosaHyp             : Bool
  itr                  : Option ItrInstruction
  pending              : Pending
  canReachPreciseState : Bool
  outstanding          : Nat
  registers            : Registers
deriving DecidableEq, Repr

/-- One step of one agent: what the PE, software, the debugger, the authentication interface, the
memory system or reset does next. -/
inductive Move where
  /-- The PE executes the instruction, or evaluates the row of Table H2-1, in the word. -/
  | word (w : Word)
  /-- `event X`: the PE generates a debug event (92_eei_decisions.md D23). -/
  | event (e : Event)
  /-- One instruction generates several synchronous events (60_exceptions.md R192); `trapping` says
  whether an Exception Trapping Vector Catch exception follows the exception taken, if one is
  (60_exceptions.md R185). -/
  | simultaneous (gs : List Generated) (trapping : Bool)
  /-- A control changes in the same step as an event is evaluated (20_memory.md R42). -/
  | during (c : Control) (e : Event)
  /-- A control or input changes in a step of its own. -/
  | control (c : Control)
  /-- `write EDRCR.CBRRQ <- v`, by the debugger (44_imprecise_entry.md R121). -/
  | writeCbrrq (v : Bool)
  /-- `take X`: `TakePending(X)` (60_exceptions.md R188). -/
  | take (p : Pendable)
  /-- `ImpreciseEntry()` (44_imprecise_entry.md R116). -/
  | impreciseEntry
  /-- The environment removes a pended event (60_exceptions.md R189). -/
  | dropPending (p : Pendable)
  /-- The debugger places an instruction in the ITR (10_state.md R20). -/
  | writeItr (k : ItrInstruction)
  /-- The PE executes the instruction in the ITR; `after` is what it leaves in the registers. -/
  | runItr (after : Registers)
  /-- The PE executes an instruction that generates no debug event; `after` is what it leaves in the
  registers (the instruction set is not in the source: 00_scope.md section 3). -/
  | executes (after : Registers)
  /-- The Exception model takes the oldest exception handed to it (60_exceptions.md R190). -/
  | exceptionModelTakes
  /-- A reset, which may generate a Reset Catch debug event (70_reset_and_hazards.md R210). -/
  | reset (i : Init) (generatesCatch : Bool)
deriving DecidableEq, Repr

end Sys2Proof
end

