-- ==== Sys2Proof/Config.lean ====
section
/-! DEFINITION. What an implementation fixes (the parameters of 00_scope.md section 4) and the free
values: constants with no body, of which nothing can be proved. -/

namespace Sys2Proof

/-- The implementation parameters (00_scope.md R1 to R5; 10_state.md R11). The state carries them
as plain data that no step changes, so that a statement about every state is a statement about
every implementation. -/
structure Params where
  /-- `impl_FEAT_DoubleLock` (R1). -/
  featDoubleLock : Bool
  /-- `impl_FEAT_Debugv8p8` (R2). -/
  featDebugv8p8  : Bool
  /-- `impl_FEAT_RME` (R3). -/
  featRme        : Bool
  /-- `impl_EL3` (R4). -/
  el3            : Bool
  /-- `impl_only_secure`, meaningful only when `el3` is FALSE (R4). -/
  onlySecure     : Bool
  /-- `impl_CBRRQ` (R5). -/
  cbrrq          : Bool
  /-- `implemented_security_states`, one bit per Security state (92_eei_decisions.md D3). -/
  hasNonSecure   : Bool
  hasSecure      : Bool
  hasRealm       : Bool
  hasRoot        : Bool
deriving DecidableEq, Repr

/-- The Security states an implementation has (10_state.md R11). -/
def Params.implements (p : Params) : SecurityState → Bool
  | .nonSecure => p.hasNonSecure
  | .secure    => p.hasSecure
  | .realm     => p.hasRealm
  | .root      => p.hasRoot

namespace Config

/-- The oracle `ExceptionModel` (92_eei_decisions.md D7): TRUE for `DebugException`, FALSE for
`Ignored`. Its second argument is the whole state less what it may not read: `HDE`
(42_breakpoint_watchpoint.md R95, 43_other_debug_exceptions.md R101). -/
opaque exceptionModel (σ : Type) : Event → σ → Bool

/-- The oracle `exception_catch_pend(state)` (92_eei_decisions.md D5): TRUE for `Pended`, FALSE for
`Ignored`. -/
opaque exceptionCatchPend (σ : Type) : σ → Bool

/-- The CONSTRAINED UNPREDICTABLE choice between a Breakpoint debug event and an Address Matching
Vector Catch exception (60_exceptions.md R184), and any other choice between synchronous events of
equal priority, which is the Exception model's: read modulo the number of events tied. -/
opaque tieBreak : Nat → Nat

/-- Which of the places that "are not debug events" a synchronous exception holds whose place the spec
does not give (60_exceptions.md R179, R181): read modulo their number. -/
opaque exceptionPlace : ExceptionKind → Nat

/-- UNKNOWN values of the one-bit register fields after an imprecise entry (44_imprecise_entry.md
R119). -/
opaque unknownControl : ControlField → Nat → Bool

/-- UNKNOWN value of a general register, by its number (44_imprecise_entry.md R119). -/
opaque unknownGeneral : Nat → Nat → Nat

/-- UNKNOWN value of the program counter (44_imprecise_entry.md R119). -/
opaque unknownPc : Nat → Nat

/-- UNKNOWN value of the flags (44_imprecise_entry.md R119). -/
opaque unknownFlags : Nat → Nat

/-- UNKNOWN contents of the ITR (44_imprecise_entry.md R119). -/
opaque unknownItr : Nat → Option ItrInstruction

end Config

end Sys2Proof
end

