-- ==== Sys2Proof/WellFormed.lean ====
section
/-! DEFINITION. Which instructions, and which steps of the agents, the spec admits. -/

namespace Sys2Proof

/-- A well-formed instruction: `cond` of `HLT_A32` "must be 1110" (30_encoding.md R52). Every other
operand of the table is well-formed by its type. -/
def Instr.wellFormed : Instr → Bool
  | .hltA32 cond _ _ => cond == 0b1110#4
  | _ => true

/-- The places of the priority list that are debug events (60_exceptions.md R179). -/
def debugPlaces : List Nat := [1, 2, 3, 6, 10, 13, 40, 46]

/-- The places of the priority list that "are not debug events" (60_exceptions.md R179): 4-5, 7-9,
11-12, 14-39, 41-45 and 47-48, which are 40 (the rule counts 38: notes/assumptions/15.md). -/
def nonDebugPlaces : List Nat :=
  (List.range 49).filter fun n => n != 0 && !debugPlaces.contains n

/-- An element of the set `S` of `SelectSynchronous` (60_exceptions.md R192): the External Debug
Request and OS Unlock Catch debug events are asynchronous (R170), an Exception Trapping Vector
Catch exception does not compete (R185), and a non-debug exception stands at a place that is no
debug event's (R181). -/
def Generated.wellFormed : Generated → Bool
  | .event .externalDebugRequest => false
  | .event .osUnlockCatch => false
  | .event (.vectorCatch .exceptionTrapping) => false
  | .event _ => true
  | .nonDebug place => nonDebugPlaces.contains place

/-- A start state the implementation can have: a Security state it implements (10_state.md R11),
and `ExceptionCatch` pending only with `FEAT_Debugv8p8` (10_state.md R21). -/
def Init.wellFormed (p : Params) (i : Init) : Bool :=
  p.implements i.security && (!i.pending.exceptionCatch || p.featDebugv8p8)

/-- A step the environment can make on an implementation. -/
def Move.wellFormed (p : Params) : Move → Bool
  | .simultaneous gs _ => gs.all Generated.wellFormed
  | .control (.security x) => p.implements x
  | .during (.security x) _ => p.implements x
  | .reset i _ => i.wellFormed p
  | _ => true

end Sys2Proof
end

