-- ==== Sys2Proof/Decode.lean ====
section
/-! DEFINITION. Reading an instruction from a word, and writing it back.

A word below 256 is a word of Table H2-1: the condition vector in bits 3..0, Authentication at bit 3
(30_encoding.md R51), and in bits 7..4 the event, in a numbering of the model's own (the table gives
the event no bits: notes/assumptions/3.md). `T32`, `A64` and `A32` words are those of
30_encoding.md R52. -/

namespace Sys2Proof

/-- Why a word is no instruction. -/
inductive DecodeError where
  /-- The event number in bits 7..4 is not in use. Safe. -/
  | reservedEventNumber
  /-- The word matches no row of the opcode table. Safe. -/
  | noTableRow
deriving DecidableEq, Repr

/-! ## The condition vector -/

/-- The vector's four bits: Authentication at bit 3, DLK at bit 2, OSLK at bit 1, HDE at bit 0. -/
def Conditions.bits (c : Conditions) : BitVec 4 :=
  BitVec.ofBool c.auth ++ BitVec.ofBool c.dlk ++ BitVec.ofBool c.oslk ++ BitVec.ofBool c.hde

def Conditions.ofBits (v : BitVec 4) : Conditions :=
  ⟨v.getLsbD 3, v.getLsbD 2, v.getLsbD 1, v.getLsbD 0⟩

/-- Whether a condition vector selects a row of the table with this mask and this match
(30_encoding.md R51). A column the mask leaves out is the row's `X`: the row "applies for both values
of that column" (45_summary_table.md R136). -/
def Conditions.selects (c : Conditions) (mask pattern : BitVec 4) : Bool :=
  c.bits &&& mask == pattern

/-! ## The event -/

def BreakOrWatch.event : BreakOrWatch → Event
  | .breakpoint t => .breakpoint t
  | .watchpoint   => .watchpoint

def OtherSoftware.event : OtherSoftware → Event
  | .softwareStep          => .softwareStep
  | .breakpointInstruction => .breakpointInstruction
  | .vectorCatch f         => .vectorCatch f

def OtherHalting.event : OtherHalting → Event
  | .haltingStep          => .haltingStep
  | .externalDebugRequest => .externalDebugRequest
  | .resetCatch           => .resetCatch
  | .osUnlockCatch        => .osUnlockCatch

/-- The model's numbering of the events with their operands. -/
def Event.number : Event → BitVec 4
  | .breakpoint .other              => 0
  | .breakpoint .addressMismatch    => 1
  | .watchpoint                     => 2
  | .softwareStep                   => 3
  | .breakpointInstruction          => 4
  | .vectorCatch .addressMatching   => 5
  | .vectorCatch .exceptionTrapping => 6
  | .haltInstruction                => 7
  | .exceptionCatch .two            => 8
  | .exceptionCatch .six            => 9
  | .softwareAccess                 => 10
  | .haltingStep                    => 11
  | .externalDebugRequest           => 12
  | .resetCatch                     => 13
  | .osUnlockCatch                  => 14

def Event.ofNumber (n : BitVec 4) : Option Event :=
  match n.toNat with
  | 0  => some (.breakpoint .other)
  | 1  => some (.breakpoint .addressMismatch)
  | 2  => some .watchpoint
  | 3  => some .softwareStep
  | 4  => some .breakpointInstruction
  | 5  => some (.vectorCatch .addressMatching)
  | 6  => some (.vectorCatch .exceptionTrapping)
  | 7  => some .haltInstruction
  | 8  => some (.exceptionCatch .two)
  | 9  => some (.exceptionCatch .six)
  | 10 => some .softwareAccess
  | 11 => some .haltingStep
  | 12 => some .externalDebugRequest
  | 13 => some .resetCatch
  | 14 => some .osUnlockCatch
  | _  => none

/-! ## Table H2-1: the row an event and a condition vector select -/

/-- Row 1 (45_summary_table.md R137). -/
def rowOtherSoftware (e : OtherSoftware) (c : Conditions) : Instr :=
  .otherSw e c.auth c.dlk c.oslk c.hde

/-- Rows 2 to 6 (45_summary_table.md R138 to R142). -/
def rowBreakOrWatch (e : BreakOrWatch) : Conditions → Instr
  | ⟨a, true, o, h⟩             => .bwDlk e a o h
  | ⟨a, false, true, h⟩         => .bwOslk e a h
  | ⟨false, false, false, h⟩    => .bwNoauth e h
  | ⟨true, false, false, false⟩ => .bwHde0 e
  | ⟨true, false, false, true⟩  => .bwHalt e

/-- Rows 7 to 10 (45_summary_table.md R143 to R146). -/
def rowHaltInstruction : Conditions → Instr
  | ⟨false, d, o, h⟩        => .hltNoauth d o h
  | ⟨true, true, o, h⟩      => .hltDlk o h
  | ⟨true, false, o, false⟩ => .hltHde0 o
  | ⟨true, false, o, true⟩  => .hltHalt o

/-- Rows 11 to 13 (45_summary_table.md R147 to R149). -/
def rowExceptionCatch (p : CatchPriority) : Conditions → Instr
  | ⟨false, d, o, h⟩     => .ecNoauth p d o h
  | ⟨true, true, o, h⟩   => .ecDlk p o h
  | ⟨true, false, o, h⟩  => .ecHalt p o h

/-- Rows 14 to 17 (45_summary_table.md R150 to R153). -/
def rowSoftwareAccess : Conditions → Instr
  | ⟨false, d, o, h⟩        => .saNoauth d o h
  | ⟨true, true, o, h⟩      => .saDlk o h
  | ⟨true, false, true, h⟩  => .saOslk h
  | ⟨true, false, false, h⟩ => .saHalt h

/-- Rows 18 to 20 (45_summary_table.md R154 to R156). -/
def rowOtherHalting (e : OtherHalting) : Conditions → Instr
  | ⟨false, d, o, h⟩    => .ohNoauth e d o h
  | ⟨true, true, o, h⟩  => .ohDlk e o h
  | ⟨true, false, o, h⟩ => .ohHalt e o h

/-- The one row of Table H2-1 that an event and a condition vector select (45_summary_table.md
R158: within each row group exactly one). -/
def rowOf (e : Event) (c : Conditions) : Instr :=
  match e with
  | .haltInstruction       => rowHaltInstruction c
  | .softwareAccess        => rowSoftwareAccess c
  | .exceptionCatch p      => rowExceptionCatch p c
  | .haltingStep           => rowOtherHalting .haltingStep c
  | .externalDebugRequest  => rowOtherHalting .externalDebugRequest c
  | .resetCatch            => rowOtherHalting .resetCatch c
  | .osUnlockCatch         => rowOtherHalting .osUnlockCatch c
  | .breakpoint t          => rowBreakOrWatch (.breakpoint t) c
  | .watchpoint            => rowBreakOrWatch .watchpoint c
  | .breakpointInstruction => rowOtherSoftware .breakpointInstruction c
  | .softwareStep          => rowOtherSoftware .softwareStep c
  | .vectorCatch f         => rowOtherSoftware (.vectorCatch f) c

/-- The event and the condition vector a row of Table H2-1 was evaluated for; none for the real
instructions of 30_encoding.md R52. -/
def Instr.eventAndConditions : Instr → Option (Event × Conditions)
  | .otherSw e a d o h => some (e.event, ⟨a, d, o, h⟩)
  | .bwDlk e a o h     => some (e.event, ⟨a, true, o, h⟩)
  | .bwOslk e a h      => some (e.event, ⟨a, false, true, h⟩)
  | .bwNoauth e h      => some (e.event, ⟨false, false, false, h⟩)
  | .bwHde0 e          => some (e.event, ⟨true, false, false, false⟩)
  | .bwHalt e          => some (e.event, ⟨true, false, false, true⟩)
  | .hltNoauth d o h   => some (.haltInstruction, ⟨false, d, o, h⟩)
  | .hltDlk o h        => some (.haltInstruction, ⟨true, true, o, h⟩)
  | .hltHde0 o         => some (.haltInstruction, ⟨true, false, o, false⟩)
  | .hltHalt o         => some (.haltInstruction, ⟨true, false, o, true⟩)
  | .ecNoauth p d o h  => some (.exceptionCatch p, ⟨false, d, o, h⟩)
  | .ecDlk p o h       => some (.exceptionCatch p, ⟨true, true, o, h⟩)
  | .ecHalt p o h      => some (.exceptionCatch p, ⟨true, false, o, h⟩)
  | .saNoauth d o h    => some (.softwareAccess, ⟨false, d, o, h⟩)
  | .saDlk o h         => some (.softwareAccess, ⟨true, true, o, h⟩)
  | .saOslk h          => some (.softwareAccess, ⟨true, false, true, h⟩)
  | .saHalt h          => some (.softwareAccess, ⟨true, false, false, h⟩)
  | .ohNoauth e d o h  => some (e.event, ⟨false, d, o, h⟩)
  | .ohDlk e o h       => some (e.event, ⟨true, true, o, h⟩)
  | .ohHalt e o h      => some (e.event, ⟨true, false, o, h⟩)
  | .hltA64 _          => none
  | .hltA32 _ _ _      => none
  | .hltT32 _          => none

/-! ## Words -/

/-- The word of an event generated under a condition vector. -/
def encodeEvent (e : Event) (c : Conditions) : Word :=
  (0#24 ++ e.number ++ c.bits).setWidth 32

/-- The instruction a word holds (30_encoding.md R51, R52), or why it holds none. -/
def decode (w : Word) : Except DecodeError Instr :=
  if w.extractLsb' 8 24 = 0#24 then
    match Event.ofNumber (w.extractLsb' 4 4) with
    | some e => .ok (rowOf e (.ofBits (w.extractLsb' 0 4)))
    | none   => .error .reservedEventNumber
  else if w.extractLsb' 6 26 = 0b1011101010#26 then
    .ok (.hltT32 (w.extractLsb' 0 6))
  else if w.extractLsb' 21 11 = 0b11010100010#11 ∧ w.extractLsb' 0 5 = 0#5 then
    .ok (.hltA64 (w.extractLsb' 5 16))
  else if w.extractLsb' 20 8 = 0b00010000#8 ∧ w.extractLsb' 4 4 = 0b0111#4 then
    .ok (.hltA32 (w.extractLsb' 28 4) (w.extractLsb' 8 12) (w.extractLsb' 0 4))
  else .error .noTableRow

/-- The word of an instruction, by the same encodings. -/
def encode (i : Instr) : Word :=
  match i with
  | .hltA64 imm16           => (0b11010100010#11 ++ imm16 ++ 0#5).setWidth 32
  | .hltA32 cond imm12 imm4 => (cond ++ 0b00010000#8 ++ imm12 ++ 0b0111#4 ++ imm4).setWidth 32
  | .hltT32 imm6            => (0b1011101010#26 ++ imm6).setWidth 32
  | i =>
    match i.eventAndConditions with
    | some (e, c) => encodeEvent e c
    | none        => 0

/-- The word whose bits are `w`, where the opcode table gives the row `nbits` bits and every bit
above them is 0. -/
def tableWord (nbits w : Nat) : Option Word :=
  if nbits ≤ 32 ∧ w < 2 ^ 32 then some (BitVec.ofNat 32 w) else none

/-- The instruction the decoder reads from an instruction whose bits are `w`. -/
def decodeTableWord (nbits w : Nat) : Option Instr :=
  match tableWord nbits w with
  | none => none
  | some x =>
    match decode x with
    | .ok i    => some i
    | .error _ => none

/-! ## Table H2-1 as data (30_encoding.md R51: a vector `v` selects the row when
`v &&& mask = pattern`) -/

/-- The six row groups of Table H2-1 (45_summary_table.md R158). -/
inductive RowGroup where
  | otherSoftware | breakOrWatch | haltInstruction | exceptionCatch | softwareAccess | otherHalting
deriving DecidableEq, Repr

def Event.group : Event → RowGroup
  | .haltInstruction       => .haltInstruction
  | .softwareAccess        => .softwareAccess
  | .exceptionCatch _      => .exceptionCatch
  | .haltingStep           => .otherHalting
  | .externalDebugRequest  => .otherHalting
  | .resetCatch            => .otherHalting
  | .osUnlockCatch         => .otherHalting
  | .breakpoint _          => .breakOrWatch
  | .watchpoint            => .breakOrWatch
  | .breakpointInstruction => .otherSoftware
  | .softwareStep          => .otherSoftware
  | .vectorCatch _         => .otherSoftware

/-- A row of Table H2-1: its number, its group, and which vectors it takes. -/
structure TableRow where
  number  : Nat
  group   : RowGroup
  mask    : BitVec 4
  pattern : BitVec 4
deriving DecidableEq, Repr

/-- The twenty rows in the table's order, as spec/opcode_table.json gives their masks. -/
def tableRows : List TableRow :=
  [⟨1, .otherSoftware, 0, 0⟩,
   ⟨2, .breakOrWatch, 4, 4⟩, ⟨3, .breakOrWatch, 6, 2⟩, ⟨4, .breakOrWatch, 14, 0⟩,
   ⟨5, .breakOrWatch, 15, 8⟩, ⟨6, .breakOrWatch, 15, 9⟩,
   ⟨7, .haltInstruction, 8, 0⟩, ⟨8, .haltInstruction, 12, 12⟩, ⟨9, .haltInstruction, 13, 8⟩,
   ⟨10, .haltInstruction, 13, 9⟩] ++
  [⟨11, .exceptionCatch, 8, 0⟩, ⟨12, .exceptionCatch, 12, 12⟩, ⟨13, .exceptionCatch, 12, 8⟩,
   ⟨14, .softwareAccess, 8, 0⟩, ⟨15, .softwareAccess, 12, 12⟩, ⟨16, .softwareAccess, 14, 10⟩,
   ⟨17, .softwareAccess, 14, 8⟩,
   ⟨18, .otherHalting, 8, 0⟩, ⟨19, .otherHalting, 12, 12⟩, ⟨20, .otherHalting, 12, 8⟩]

/-- Whether a row takes an event under a condition vector (30_encoding.md R51). -/
def TableRow.takes (r : TableRow) (e : Event) (c : Conditions) : Bool :=
  r.group == e.group && c.selects r.mask r.pattern

/-- The number of the table row an instruction stands for; none for the `HLT` encodings. -/
def Instr.tableRowNumber : Instr → Option Nat
  | .otherSw ..   => some 1
  | .bwDlk ..     => some 2
  | .bwOslk ..    => some 3
  | .bwNoauth ..  => some 4
  | .bwHde0 ..    => some 5
  | .bwHalt ..    => some 6
  | .hltNoauth .. => some 7
  | .hltDlk ..    => some 8
  | .hltHde0 ..   => some 9
  | .hltHalt ..   => some 10
  | .ecNoauth ..  => some 11
  | .ecDlk ..     => some 12
  | .ecHalt ..    => some 13
  | .saNoauth ..  => some 14
  | .saDlk ..     => some 15
  | .saOslk ..    => some 16
  | .saHalt ..    => some 17
  | .ohNoauth ..  => some 18
  | .ohDlk ..     => some 19
  | .ohHalt ..    => some 20
  | .hltA64 ..    => none
  | .hltA32 ..    => none
  | .hltT32 ..    => none

end Sys2Proof
end

