-- ==== Sys2Proof/Machine/State.lean ====
section
/-! DEFINITION. The state of the PE, of its debugger interface and of the inputs around it
(10_state.md), why a step can stop, and the state after reset. -/

namespace Sys2Proof.Machine

/-- The faults of a step: the environment's next step is not one the implementation can see. -/
inductive Fault where
  /-- Raised by a step of the agenda that is not well-formed: a non-debug exception at a debug
  event's place (60_exceptions.md R181), an asynchronous event given as a synchronous one (R170), a
  Security state or a pending event the implementation does not have (10_state.md R11, R21). Safe:
  no such step exists on the hardware. -/
  | illFormedMove
deriving DecidableEq, Repr

/-- The refusals of a step: the spec gives the run no meaning. -/
inductive Refusal where
  /-- The instruction has no meaning in the model yet. Raised by `exec` only. Safe. -/
  | notModelled (mnemonic : String)
  /-- The word is no instruction of the opcode table. Raised by a step that reads a word. Safe. -/
  | undecoded (why : DecodeError)
  /-- A condition of Table H2-1 changed between the generation of a debug event and its being
  evaluated or taken: CONSTRAINED UNPREDICTABLE with no behaviour given
  (40_outcomes_and_halting_allowed.md R62, 20_memory.md R42). Raised by a row of the table of a
  synchronous event that the state's conditions do not select, by a change in the same step as an
  event is evaluated, and by a change while an entry is held. Safe. -/
  | conditionsChanged
  /-- A breakpoint of the Address Mismatch type where that type is reserved
  (42_breakpoint_watchpoint.md R91). Raised by the breakpoint rows. Safe. -/
  | addressMismatchReserved
  /-- A write of 1 to `EDRCR.CBRRQ` with no External Debug Request debug event pending
  (44_imprecise_entry.md R115). Raised by the debugger's write. Safe. -/
  | cbrrqWithoutPendingRequest
  /-- A memory access instruction executed through the ITR after an imprecise entry
  (44_imprecise_entry.md R118). Raised by the execution of the ITR. Safe. -/
  | itrMemoryAccessAfterImpreciseEntry
  /-- An `HLT_A32` word whose `cond` is not 1110 (30_encoding.md R52). Raised by that row. Safe. -/
  | hltConditionNot1110
deriving DecidableEq, Repr

/-- The state. Fields the spec names cite their rule; the last six are the model's own. -/
structure State where
  /-- `Halted`: the PE is in Debug state (R10). -/
  halted               : Bool
  /-- `SecurityState` (R11). -/
  security             : SecurityState
  /-- AArch64 state or AArch32 state (R25). -/
  execState            : ExecutionState
  /-- `auth_ns`, `ExternalInvasiveDebugEnabled()` (R12). -/
  authNs               : Bool
  /-- `auth_s`, `ExternalSecureInvasiveDebugEnabled()` (R12). -/
  authS                : Bool
  /-- `auth_rl`, `ExternalRealmInvasiveDebugEnabled()` (R12). -/
  authRl               : Bool
  /-- `auth_rt`, `ExternalRootInvasiveDebugEnabled()` (R12). -/
  authRt               : Bool
  /-- `OSDoubleLockLocked` (R13). -/
  osDoubleLockLocked   : Bool
  /-- `OSLSR_EL1.OSLK` (R14). -/
  oslk                 : Bool
  /-- `EDSCR.HDE` (R15). -/
  hde                  : Bool
  /-- `MDSCR_EL1.MDE` (R18). -/
  mde                  : Bool
  /-- `DBGDSCRext.MDBGen` (R18). -/
  mdbgen               : Bool
  /-- `MDCR_EL3.TDOSA` (R17). -/
  tdosaEl3             : Bool
  /-- `HDCR.TDOSA` (R17). -/
  tdosaHyp             : Bool
  /-- `CBRRQ_requested` (R19). -/
  cbrrqRequested       : Bool
  /-- The ITR: the instruction placed in it, if one is (R20). -/
  itr                  : Option ItrInstruction
  /-- `Pending` (R21). -/
  pending              : Pending
  /-- `EntryCause` (R22). -/
  entryCause           : Option EventType
  /-- `EntryImprecise` (R22). -/
  entryImprecise       : Bool
  /-- `CanReachPreciseState` (R23). -/
  canReachPreciseState : Bool
  /-- How many memory accesses are outstanding (R23, 44_imprecise_entry.md R116). -/
  outstanding          : Nat
  /-- The general registers, the program counter and the flags (R24). -/
  registers            : Registers
  /-- The implementation's parameters (00_scope.md section 4); no step changes them. -/
  params               : Params
  /-- The synchronous event whose precise entry is held until the PE can reach a precise state
  (44_imprecise_entry.md R111). -/
  held                 : Option EventType
  /-- The exceptions handed to the Exception model and not yet taken by it, oldest first
  (60_exceptions.md R190). -/
  handed               : List ExceptionKind
  /-- The outcome of the last debug event (40_outcomes_and_halting_allowed.md R60). -/
  outcome              : Option EventOutcome
  /-- How many steps have been made; the free values are applied to it. -/
  tick                 : Nat
  /-- The steps the agents make next, first to last. -/
  agenda               : List Move
deriving DecidableEq, Repr

/-- The start state for a value of the parameter `init` (70_reset_and_hazards.md R211):
`CBRRQ_requested`, `EntryCause` and `EntryImprecise` are the three the spec fixes
(92_eei_decisions.md D18). -/
def State.ofInit (p : Params) (i : Init) (agenda : List Move) : State where
  halted               := i.halted
  security             := i.security
  execState            := i.execState
  authNs               := i.authNs
  authS                := i.authS
  authRl               := i.authRl
  authRt               := i.authRt
  osDoubleLockLocked   := i.osDoubleLockLocked
  oslk                 := i.oslk
  hde                  := i.hde
  mde                  := i.mde
  mdbgen               := i.mdbgen
  tdosaEl3             := i.tdosaEl3
  tdosaHyp             := i.tdosaHyp
  cbrrqRequested       := false
  itr                  := i.itr
  pending              := i.pending
  entryCause           := none
  entryImprecise       := false
  canReachPreciseState := i.canReachPreciseState
  outstanding          := i.outstanding
  registers            := i.registers
  params               := p
  held                 := none
  handed               := []
  outcome              := none
  tick                 := 0
  agenda               := agenda

/-- The parameters of the reset state: everything the spec names is implemented.
DESIGN CHOICE, unsafe: notes/assumptions/1.md. -/
def resetParams : Params where
  featDoubleLock := true
  featDebugv8p8  := true
  featRme        := true
  el3            := true
  onlySecure     := false
  cbrrq          := true
  hasNonSecure   := true
  hasSecure      := true
  hasRealm       := true
  hasRoot        := true

/-- The value of `init` at the reset state. PRESUMED (the values 70_reset_and_hazards.md R211 offers
from general knowledge) and DESIGN CHOICE (the rest), unsafe: notes/assumptions/2.md. -/
def resetInit : Init where
  halted               := false
  security             := .root
  execState            := .aarch64
  authNs               := false
  authS                := false
  authRl               := false
  authRt               := false
  osDoubleLockLocked   := false
  oslk                 := true
  hde                  := false
  mde                  := false
  mdbgen               := false
  tdosaEl3             := false
  tdosaHyp             := false
  itr                  := none
  pending              := Pending.empty
  canReachPreciseState := true
  outstanding          := 0
  registers            := ⟨[], 0, 0⟩

/-- The machine right after reset, with no agent's step placed (70_reset_and_hazards.md R211). -/
def State.reset : State := State.ofInit resetParams resetInit []

end Sys2Proof.Machine
end

