-- ==== Sys2Proof/Machine/Ops.lean ====
section
/-! DEFINITION. The named operations over the state: the functions the source names
(46_pseudocode_functions.md), pending, entry to Debug state, and handing an exception to the
Exception model. -/

namespace Sys2Proof

/-! ## Event types -/

/-- The type of a debug event (30_encoding.md R50). -/
def Event.type : Event → EventType
  | .haltInstruction       => .haltInstruction
  | .softwareAccess        => .softwareAccess
  | .exceptionCatch _      => .exceptionCatch
  | .haltingStep           => .haltingStep
  | .externalDebugRequest  => .externalDebugRequest
  | .resetCatch            => .resetCatch
  | .osUnlockCatch         => .osUnlockCatch
  | .breakpoint _          => .breakpoint
  | .watchpoint            => .watchpoint
  | .breakpointInstruction => .breakpointInstruction
  | .softwareStep          => .softwareStep
  | .vectorCatch _         => .vectorCatch

/-- The event type of a pended event. -/
def Pendable.type : Pendable → EventType
  | .exceptionCatch       => .exceptionCatch
  | .haltingStep          => .haltingStep
  | .externalDebugRequest => .externalDebugRequest
  | .resetCatch           => .resetCatch
  | .osUnlockCatch        => .osUnlockCatch

/-- The entry of `Pending` for an event type, for the five types that can be pended
(10_state.md R21). -/
def EventType.pendable : EventType → Option Pendable
  | .exceptionCatch       => some .exceptionCatch
  | .haltingStep          => some .haltingStep
  | .externalDebugRequest => some .externalDebugRequest
  | .resetCatch           => some .resetCatch
  | .osUnlockCatch        => some .osUnlockCatch
  | _                     => none

/-- The entry of `Pending` for an event of the group "Other Halting". -/
def OtherHalting.pendable : OtherHalting → Pendable
  | .haltingStep          => .haltingStep
  | .externalDebugRequest => .externalDebugRequest
  | .resetCatch           => .resetCatch
  | .osUnlockCatch        => .osUnlockCatch

/-! ## The set of pended events (10_state.md R21) -/

/-- `p ∈ Pending`. -/
def Pending.has (s : Pending) : Pendable → Bool
  | .exceptionCatch       => s.exceptionCatch
  | .haltingStep          => s.haltingStep
  | .externalDebugRequest => s.externalDebugRequest
  | .resetCatch           => s.resetCatch
  | .osUnlockCatch        => s.osUnlockCatch

/-- `Pending` with the membership of one type set to `v`. -/
def Pending.set (s : Pending) (v : Bool) : Pendable → Pending
  | .exceptionCatch       => { s with exceptionCatch := v }
  | .haltingStep          => { s with haltingStep := v }
  | .externalDebugRequest => { s with externalDebugRequest := v }
  | .resetCatch           => { s with resetCatch := v }
  | .osUnlockCatch        => { s with osUnlockCatch := v }

/-- `Pending ∪ {p}` (60_exceptions.md R186). -/
def Pending.insert (s : Pending) (p : Pendable) : Pending := s.set true p

/-- `Pending \ {p}` (60_exceptions.md R189). -/
def Pending.erase (s : Pending) (p : Pendable) : Pending := s.set false p

/-- `Pending \ {cause}` for a cause of any event type (60_exceptions.md R195). -/
def Pending.eraseType (s : Pending) (t : EventType) : Pending :=
  match t.pendable with
  | some p => s.erase p
  | none   => s

/-! ## The Exception model (60_exceptions.md R190) -/

/-- The kind of the debug exception an event generates (42_breakpoint_watchpoint.md R94,
43_other_debug_exceptions.md R100); none for the Halting debug events, which "never generate debug
exceptions" (41_halting_debug_events.md R80). -/
def Event.exceptionKind : Event → Option ExceptionKind
  | .breakpoint _          => some .breakpoint
  | .watchpoint            => some .watchpoint
  | .breakpointInstruction => some .breakpointInstruction
  | .softwareStep          => some .softwareStep
  | .vectorCatch f         => some (.vectorCatch f)
  | _                      => none

namespace Machine

/-! ## Halting allowed and halting prohibited (40_outcomes_and_halting_allowed.md) -/

/-- `DoubleLockStatus()` (10_state.md R13, 00_scope.md R1). -/
def State.doubleLockStatus (s : State) : Bool :=
  s.params.featDoubleLock && s.osDoubleLockLocked

/-- The authentication input of a Security state (10_state.md R12). -/
def State.authOf (s : State) : SecurityState → Bool
  | .nonSecure => s.authNs
  | .secure    => s.authS
  | .realm     => s.authRl
  | .root      => s.authRt

/-- `AuthenticationAllows()`: the input of the Security state the PE is in (R66, R68). -/
def State.authenticationAllows (s : State) : Bool := s.authOf s.security

/-- `HaltingAllowed()` (R68, clause by clause R64, R65, R66, R67). -/
def State.haltingAllowed (s : State) : Bool :=
  if s.halted then false
  else if s.doubleLockStatus then false
  else s.authenticationAllows

/-- `HaltOnBreakpointOrWatchpoint()` (42_breakpoint_watchpoint.md R97). -/
def State.haltOnBreakpointOrWatchpoint (s : State) : Bool :=
  s.haltingAllowed && s.hde && !s.oslk

/-! ## Pending, entering Debug state, handing an exception over -/

/-- The outcome `Ignored`: no state changes but the record of the outcome. -/
def State.ignoreEvent (s : State) : State := { s with outcome := some .ignored }

/-- `Pend(p)` (60_exceptions.md R186). -/
def State.pendEvent (s : State) (p : Pendable) : State :=
  { s with pending := s.pending.insert p, outcome := some .pended }

/-- `EnterDebugState(cause, precise)` (60_exceptions.md R195): taking the exception of this
hardware. A held entry ends with it (44_imprecise_entry.md R111). -/
def State.enterDebugState (s : State) (cause : EventType) (precise : Bool) : State :=
  { s with
    halted         := true
    entryCause     := some cause
    entryImprecise := !precise
    pending        := s.pending.eraseType cause
    cbrrqRequested := false
    held           := none
    outcome        := some .enterDebugState }

/-- A precise entry for a synchronous event. While the PE cannot reach a precise state the entry has
no step: the event is held (44_imprecise_entry.md R111), and is taken before any instruction once the
PE can (60_exceptions.md R171; notes/assumptions/6.md). -/
def State.enterOrHold (s : State) (cause : EventType) : State :=
  if s.canReachPreciseState then s.enterDebugState cause true
  else { s with held := some cause, outcome := some .enterDebugState }

/-- The state without the record of the last outcome and the steps still to come, which are the
model's own: what an oracle may read. -/
def State.oracleView (s : State) : State := { s with outcome := none, agenda := [] }

/-- The state as the Exception model's oracle may read it: all that an oracle may read but `HDE`
(42_breakpoint_watchpoint.md R95, 43_other_debug_exceptions.md R101). -/
def State.exceptionView (s : State) : State := { s.oracleView with hde := false }

/-- Whether the Exception model generates a debug exception for an event, and does not ignore it
(42_breakpoint_watchpoint.md R94): a free value. -/
def State.exceptionGenerated (s : State) (e : Event) : Bool :=
  Config.exceptionModel State e s.exceptionView

/-- Whether an Exception Catch debug event that cannot halt is pended
(41_halting_debug_events.md R78): a free value. -/
def State.exceptionCatchPends (s : State) : Bool :=
  Config.exceptionCatchPend State s.oracleView

/-- The outcome `ExceptionModel`: the event becomes a debug exception, handed to the Exception
model, or is ignored, as the Exception model decides (42_breakpoint_watchpoint.md R94,
43_other_debug_exceptions.md R101, 60_exceptions.md R190). -/
def State.handToExceptionModel (s : State) (e : Event) : State :=
  { s with
    handed  := if s.exceptionGenerated e then s.handed ++ e.exceptionKind.toList else s.handed
    outcome := some (if s.exceptionGenerated e then .debugException else .ignored) }

/-- `raise Undefined`: the instruction is UNDEFINED, handed over with no further content
(41_halting_debug_events.md R76, 92_eei_decisions.md D24). -/
def State.raiseUndefined (s : State) : State :=
  { s with handed := s.handed ++ [.undefinedInstruction], outcome := some .treatedAsUndefined }

/-! ## Imprecise entry (44_imprecise_entry.md) -/

/-- `CancelOutstandingMemoryAccesses()` (R116). -/
def State.cancelOutstandingMemoryAccesses (s : State) : State := { s with outstanding := 0 }

/-- Every register takes an UNKNOWN value (R119), but for the five items `EnterDebugState` writes
(92_eei_decisions.md D11). -/
def State.unknownRegisters (s : State) : State :=
  { s with
    oslk               := Config.unknownControl .oslk s.tick
    hde                := Config.unknownControl .hde s.tick
    osDoubleLockLocked := Config.unknownControl .doubleLock s.tick
    mde                := Config.unknownControl .mde s.tick
    mdbgen             := Config.unknownControl .mdbgen s.tick
    tdosaEl3           := Config.unknownControl .tdosaEl3 s.tick
    tdosaHyp           := Config.unknownControl .tdosaHyp s.tick
    itr                := Config.unknownItr s.tick
    registers          :=
      { general := (List.range s.registers.general.length).map fun n =>
          Config.unknownGeneral n s.tick
        pc      := Config.unknownPc s.tick
        flags   := Config.unknownFlags s.tick } }

end Machine

end Sys2Proof
end

