-- ==== Sys2Proof/Machine/Flags.lean ====
section
/-! DEFINITION. The four conditions of Table H2-1 (45_summary_table.md R132 to R135). The hardware
has no other flag: no rule gives an instruction a flag to write (10_state.md R24). -/

namespace Sys2Proof.Machine

/-- The condition vector of a state: Authentication, DLK, OSLK and HDE (45_summary_table.md R132 to
R135). Authentication is `AuthenticationAllows()`, which leaves out the Debug state condition
(R132). -/
def State.conditions (s : State) : Conditions :=
  ⟨s.authenticationAllows, s.doubleLockStatus, s.oslk, s.hde⟩

/-- Every input of the outcome of a debug event but the event itself
(40_outcomes_and_halting_allowed.md R61): `Halted`, `DoubleLockStatus()`, `SecurityState`, the four
authentication inputs, `OSLK` and `HDE`. -/
structure OutcomeInputs where
  halted   : Bool
  dlk      : Bool
  security : SecurityState
  authNs   : Bool
  authS    : Bool
  authRl   : Bool
  authRt   : Bool
  oslk     : Bool
  hde      : Bool
deriving DecidableEq, Repr

/-- The inputs of R61 in a state. -/
def State.outcomeInputs (s : State) : OutcomeInputs :=
  ⟨s.halted, s.doubleLockStatus, s.security, s.authNs, s.authS, s.authRl, s.authRt, s.oslk, s.hde⟩

/-- A row of the table with this mask and match runs where the state's conditions select it
(30_encoding.md R51). Where they do not, they changed between the generation of the event and its
evaluation, and the run is refused (40_outcomes_and_halting_allowed.md R62, 20_memory.md R42). -/
def State.underConditions (s : State) (mask pattern : BitVec 4)
    (result : Host.Outcome State Fault Refusal) : Host.Outcome State Fault Refusal :=
  if s.conditions.selects mask pattern then result else .refused .conditionsChanged

/-- A row that halts the PE, or that Debug state turns into another: the rows hold in Non-debug state,
and in Debug state an event behaves as in the row of its group with Authentication FALSE
(45_summary_table.md R159). -/
def State.unlessHalted (s : State) (nonDebug debug : Host.Outcome State Fault Refusal) :
    Host.Outcome State Fault Refusal :=
  if s.halted then debug else nonDebug

end Sys2Proof.Machine
end

