-- ==== Sys2Proof/Machine/Operands.lean ====
section
/-! DEFINITION. What the rules read of an event's operands: its place in the priority list, whether
it is synchronous, and who can generate it. -/

namespace Sys2Proof

/-- The number of an Exception Catch priority (60_exceptions.md R180). -/
def CatchPriority.number : CatchPriority → Nat
  | .two => 2
  | .six => 6

/-- `SyncPriority` (60_exceptions.md R179), and 10 for an Address Matching Vector Catch exception
(R183); none for the events that have no place of their own in the list. -/
def Event.syncPriority : Event → Option Nat
  | .resetCatch                   => some 1
  | .exceptionCatch p             => some p.number
  | .haltingStep                  => some 3
  | .breakpoint _                 => some 10
  | .vectorCatch .addressMatching => some 10
  | .haltInstruction              => some 13
  | .softwareAccess               => some 40
  | .watchpoint                   => some 46
  | _                             => none

/-- The seven synchronous debug events (60_exceptions.md R170). -/
def Event.synchronous : Event → Bool
  | .breakpoint _ | .watchpoint | .haltingStep | .haltInstruction | .exceptionCatch _
  | .softwareAccess | .resetCatch => true
  | _ => false

/-- The two asynchronous Halting debug events (60_exceptions.md R170). -/
def Event.asynchronous : Event → Bool
  | .externalDebugRequest | .osUnlockCatch => true
  | _ => false

/-- The place in the priority list of a synchronous exception whose place the spec does not give:
one of those that are not debug events (60_exceptions.md R181), a free value among them. -/
def ExceptionKind.place (k : ExceptionKind) : Nat :=
  nonDebugPlaces.getD (Config.exceptionPlace k % nonDebugPlaces.length) 4

/-- Whether a change is made by software on the PE, so that it is an instruction's. -/
def Control.bySoftware : Control → Bool
  | .hde who _ => who == .software
  | .oslk ..       => true
  | .doubleLock _  => true
  | .mde _         => true
  | .mdbgen _      => true
  | .tdosaEl3 _    => true
  | .tdosaHyp _    => true
  | .security _    => false
  | .execState _   => false
  | .auth ..       => false
  | .precise _     => false
  | .outstanding _ => false

/-- Whether a word holds a row for an asynchronous Halting debug event, which no instruction generates
(60_exceptions.md R170, R187). -/
def Word.holdsAsynchronous (w : Word) : Bool :=
  match decode w with
  | .error _ => false
  | .ok i    =>
    match i.eventAndConditions with
    | some (e, _) => e.asynchronous
    | none        => false

/-- Whether a step needs the PE to execute an instruction or to take an exception. While an entry to
Debug state is held there is no such step: the event "must be taken before any subsequent
instructions are executed" (60_exceptions.md R171). -/
def Move.needsExecution : Move → Bool
  | .word w             => !Word.holdsAsynchronous w
  | .event e            => !e.asynchronous
  | .simultaneous ..    => true
  | .during c e         => c.bySoftware || !e.asynchronous
  | .control c          => c.bySoftware
  | .executes _         => true
  | .writeCbrrq _       => false
  | .take _             => false
  | .impreciseEntry     => false
  | .dropPending _      => false
  | .writeItr _         => false
  | .runItr _           => false
  | .exceptionModelTakes => true
  | .reset ..           => false

end Sys2Proof
end

