-- ==== Sys2Proof/Machine/Debugger.lean ====
section
/-! DEFINITION. The debugger's moves and the asynchronous entries to Debug state
(44_imprecise_entry.md, 60_exceptions.md R186 to R189). -/

namespace Sys2Proof.Machine

/-- `CBRRQWriteIgnored()` (44_imprecise_entry.md R114). It reads the authentication inputs by name,
not through the current Security state. -/
def State.cbrrqWriteIgnored (s : State) : Bool :=
  !s.authNs
    || (!s.params.featRme && !s.authS
        && ((!s.params.el3 && s.params.onlySecure) || s.params.el3))
    || (s.params.featRme && !s.authRt)

/-- `WriteCBRRQ(v)` (44_imprecise_entry.md R121). -/
def writeCbrrq (v : Bool) (s : State) : Host.Outcome State Fault Refusal :=
  if !v then .next s
  else if !s.params.cbrrq then .next s
  else if s.cbrrqWriteIgnored then .next s
  else if !s.pending.externalDebugRequest then .refused .cbrrqWithoutPendingRequest
  else .next { s with cbrrqRequested := true }

/-- Whether `ImpreciseEntry()` is enabled (44_imprecise_entry.md R116). -/
def State.impreciseEntryEnabled (s : State) : Bool :=
  s.params.cbrrq && s.cbrrqRequested && s.pending.externalDebugRequest && s.haltingAllowed

/-- `ImpreciseEntry()` (44_imprecise_entry.md R116, R119). Where it is not enabled there is no such
step, and nothing happens. -/
def impreciseEntry (s : State) : Host.Outcome State Fault Refusal :=
  if s.impreciseEntryEnabled then
    .next ((s.cancelOutstandingMemoryAccesses.enterDebugState .externalDebugRequest
      false).unknownRegisters)
  else .next s

/-- Whether `TakePending(p)` is enabled (60_exceptions.md R188). -/
def State.takeEnabled (s : State) (p : Pendable) : Bool :=
  s.pending.has p && s.haltingAllowed && s.canReachPreciseState

/-- `TakePending(p)` (60_exceptions.md R188). Where it is not enabled there is no such step, and
nothing happens: the event stays pending (44_imprecise_entry.md R111). -/
def takePending (p : Pendable) (s : State) : Host.Outcome State Fault Refusal :=
  if s.takeEnabled p then .next (s.enterDebugState p.type true) else .next s

/-- The environment removes a pended event (60_exceptions.md R189). -/
def dropPending (p : Pendable) (s : State) : Host.Outcome State Fault Refusal :=
  .next { s with pending := s.pending.erase p }

/-- The debugger places an instruction in the ITR (10_state.md R20). -/
def writeItr (k : ItrInstruction) (s : State) : Host.Outcome State Fault Refusal :=
  .next { s with itr := some k }

/-- The PE executes the instruction in the ITR, in Debug state (60_exceptions.md R193). A memory
access after an imprecise entry is refused (44_imprecise_entry.md R118). -/
def runItr (after : Registers) (s : State) : Host.Outcome State Fault Refusal :=
  if s.halted then
    match s.itr with
    | none => .next s
    | some .memoryAccess =>
      if s.entryImprecise then .refused .itrMemoryAccessAfterImpreciseEntry
      else .next { s with registers := after, itr := none }
    | some .otherInstruction => .next { s with registers := after, itr := none }
  else .next s

/-- The PE executes an instruction that generates no debug event, in Non-debug state: in Debug state
instructions are executed through the ITR (60_exceptions.md R193). -/
def executeOrdinary (after : Registers) (s : State) : Host.Outcome State Fault Refusal :=
  if s.halted then .next s else .next { s with registers := after }

/-- The Exception model takes the oldest exception handed to it (60_exceptions.md R190). -/
def exceptionModelTakes (s : State) : Host.Outcome State Fault Refusal :=
  .next { s with handed := s.handed.tail }

end Sys2Proof.Machine
end

