-- ==== Sys2Proof/Machine/BreakWatch.lean ====
section
/-! DEFINITION. Rows 2 to 6 of Table H2-1, breakpoints and watchpoints
(42_breakpoint_watchpoint.md). -/

namespace Sys2Proof.Machine

/-- A breakpoint or watchpoint that generates entry to Debug state, and no debug exception
(42_breakpoint_watchpoint.md R90, R93). The Address Mismatch type is reserved here (R91). -/
def enterOnBreakOrWatch (e : BreakOrWatch) (s : State) : Host.Outcome State Fault Refusal :=
  match e with
  | .breakpoint .addressMismatch => .refused .addressMismatchReserved
  | .breakpoint .other           => .next (s.enterOrHold .breakpoint)
  | .watchpoint                  => .next (s.enterOrHold .watchpoint)

/-- `BW_DLK` (45_summary_table.md R138): ignored. -/
def execBwDlk (_e : BreakOrWatch) (_a _o _h : Bool) (s : State) : Host.Outcome State Fault Refusal :=
  s.underConditions 0b0100#4 0b0100#4 (.next s.ignoreEvent)

/-- `BW_OSLK` (45_summary_table.md R139): ignored. -/
def execBwOslk (_e : BreakOrWatch) (_a _h : Bool) (s : State) : Host.Outcome State Fault Refusal :=
  s.underConditions 0b0110#4 0b0010#4 (.next s.ignoreEvent)

/-- `BW_NOAUTH` (45_summary_table.md R140): handled by the Exception model. -/
def execBwNoauth (e : BreakOrWatch) (_h : Bool) (s : State) : Host.Outcome State Fault Refusal :=
  s.underConditions 0b1110#4 0b0000#4 (.next (s.handToExceptionModel e.event))

/-- `BW_HDE0` (45_summary_table.md R141): handled by the Exception model. -/
def execBwHde0 (e : BreakOrWatch) (s : State) : Host.Outcome State Fault Refusal :=
  s.underConditions 0b1111#4 0b1000#4 (.next (s.handToExceptionModel e.event))

/-- `BW_HALT` (45_summary_table.md R142): entry to Debug state; in Debug state, handled by the
Exception model (R159). -/
def execBwHalt (e : BreakOrWatch) (s : State) : Host.Outcome State Fault Refusal :=
  s.underConditions 0b1111#4 0b1001#4
    (s.unlessHalted (enterOnBreakOrWatch e s) (.next (s.handToExceptionModel e.event)))

end Sys2Proof.Machine
end

