-- ==== Sys2Proof/Machine/ExceptionCatch.lean ====
section
/-! DEFINITION. Rows 11 to 13 of Table H2-1, the Exception Catch debug event
(41_halting_debug_events.md R84). -/

namespace Sys2Proof.Machine

/-- "Might be pended" (45_summary_table.md R147): ignored without `FEAT_Debugv8p8`, and with it
pended or ignored as the oracle says (41_halting_debug_events.md R78). -/
def State.exceptionCatchNotHalting (s : State) : State :=
  { s with
    pending := if s.params.featDebugv8p8 && s.exceptionCatchPends
      then s.pending.insert .exceptionCatch else s.pending
    outcome := some (if s.params.featDebugv8p8 && s.exceptionCatchPends
      then .pended else .ignored) }

/-- `EC_NOAUTH` (45_summary_table.md R147): might be pended. -/
def execEcNoauth (_p : CatchPriority) (_d _o _h : Bool) (s : State) :
    Host.Outcome State Fault Refusal :=
  s.underConditions 0b1000#4 0b0000#4 (.next s.exceptionCatchNotHalting)

/-- `EC_DLK` (45_summary_table.md R148): ignored, also with `FEAT_Debugv8p8`; in Debug state might be
pended (R159). -/
def execEcDlk (_p : CatchPriority) (_o _h : Bool) (s : State) : Host.Outcome State Fault Refusal :=
  s.underConditions 0b1100#4 0b1100#4
    (s.unlessHalted (.next s.ignoreEvent) (.next s.exceptionCatchNotHalting))

/-- `EC_HALT` (45_summary_table.md R149): entry to Debug state; in Debug state might be pended
(R159). -/
def execEcHalt (_p : CatchPriority) (_o _h : Bool) (s : State) : Host.Outcome State Fault Refusal :=
  s.underConditions 0b1100#4 0b1000#4
    (s.unlessHalted (.next (s.enterOrHold .exceptionCatch)) (.next s.exceptionCatchNotHalting))

end Sys2Proof.Machine
end

