-- ==== Sys2Proof/Machine/HaltInstruction.lean ====
section
/-! DEFINITION. Rows 7 to 10 of Table H2-1, the Halt Instruction debug event, and the three `HLT`
encodings that generate it (41_halting_debug_events.md R82, 30_encoding.md R52). -/

namespace Sys2Proof.Machine

/-- `HLT_NOAUTH` (45_summary_table.md R143): the instruction is UNDEFINED. -/
def execHltNoauth (_d _o _h : Bool) (s : State) : Host.Outcome State Fault Refusal :=
  s.underConditions 0b1000#4 0b0000#4 (.next s.raiseUndefined)

/-- `HLT_DLK` (45_summary_table.md R144): the instruction is UNDEFINED. -/
def execHltDlk (_o _h : Bool) (s : State) : Host.Outcome State Fault Refusal :=
  s.underConditions 0b1100#4 0b1100#4 (.next s.raiseUndefined)

/-- `HLT_HDE0` (45_summary_table.md R145): the instruction is UNDEFINED. -/
def execHltHde0 (_o : Bool) (s : State) : Host.Outcome State Fault Refusal :=
  s.underConditions 0b1101#4 0b1000#4 (.next s.raiseUndefined)

/-- `HLT_HALT` (45_summary_table.md R146): entry to Debug state; in Debug state the instruction is
UNDEFINED (R159). -/
def execHltHalt (_o : Bool) (s : State) : Host.Outcome State Fault Refusal :=
  s.underConditions 0b1101#4 0b1001#4
    (s.unlessHalted (.next (s.enterOrHold .haltInstruction)) (.next s.raiseUndefined))

/-- What a halt instruction does, by the pseudocode of 41_halting_debug_events.md R82. -/
def State.haltInstruction (s : State) : State :=
  if s.haltingAllowed && s.hde then s.enterOrHold .haltInstruction else s.raiseUndefined

/-- `HLT_A64` (41_halting_debug_events.md R82); the immediate is not read (30_encoding.md R52). -/
def execHltA64 (_imm16 : BitVec 16) (s : State) : Host.Outcome State Fault Refusal :=
  .next s.haltInstruction

/-- `HLT_A32` (41_halting_debug_events.md R82); `cond` "must be 1110" (30_encoding.md R52). -/
def execHltA32 (cond : BitVec 4) (_imm12 : BitVec 12) (_imm4 : BitVec 4) (s : State) :
    Host.Outcome State Fault Refusal :=
  if cond = 0b1110#4 then .next s.haltInstruction else .refused .hltConditionNot1110

/-- `HLT_T32` (41_halting_debug_events.md R82); the immediate is not read (30_encoding.md R52). -/
def execHltT32 (_imm6 : BitVec 6) (s : State) : Host.Outcome State Fault Refusal :=
  .next s.haltInstruction

end Sys2Proof.Machine
end

