-- ==== Sys2Proof/Machine/OtherHalting.lean ====
section
/-! DEFINITION. Rows 18 to 20 of Table H2-1, the other Halting debug events
(41_halting_debug_events.md R85 to R88). -/

namespace Sys2Proof.Machine

/-- A row of the group: a Halting Step and a Reset Catch debug event are synchronous, and the row
runs where the conditions select it. An External Debug Request and an OS Unlock Catch debug event are
pended on generation in every state, and no condition is read until they are taken
(41_halting_debug_events.md R86, R88; 60_exceptions.md R176; 40_outcomes_and_halting_allowed.md R62). -/
def otherHalting (e : OtherHalting) (mask pattern : BitVec 4)
    (result : Host.Outcome State Fault Refusal) (s : State) : Host.Outcome State Fault Refusal :=
  match e with
  | .externalDebugRequest => .next (s.pendEvent .externalDebugRequest)
  | .osUnlockCatch        => .next (s.pendEvent .osUnlockCatch)
  | .haltingStep          => s.underConditions mask pattern result
  | .resetCatch           => s.underConditions mask pattern result

/-- `OH_NOAUTH` (45_summary_table.md R154): the event is pended. -/
def execOhNoauth (e : OtherHalting) (_d _o _h : Bool) (s : State) :
    Host.Outcome State Fault Refusal :=
  otherHalting e 0b1000#4 0b0000#4 (.next (s.pendEvent e.pendable)) s

/-- `OH_DLK` (45_summary_table.md R155): the event is pended. -/
def execOhDlk (e : OtherHalting) (_o _h : Bool) (s : State) : Host.Outcome State Fault Refusal :=
  otherHalting e 0b1100#4 0b1100#4 (.next (s.pendEvent e.pendable)) s

/-- `OH_HALT` (45_summary_table.md R156): entry to Debug state; in Debug state the event is pended
(R159). For the External Debug Request and OS Unlock Catch debug events the entry goes through
`Pending`, from which `TakePending` takes them. -/
def execOhHalt (e : OtherHalting) (_o _h : Bool) (s : State) : Host.Outcome State Fault Refusal :=
  otherHalting e 0b1100#4 0b1000#4
    (s.unlessHalted (.next (s.enterOrHold e.event.type)) (.next (s.pendEvent e.pendable))) s

end Sys2Proof.Machine
end

