-- ==== Sys2Proof/Machine/OtherSoftware.lean ====
section
/-! DEFINITION. Row 1 of Table H2-1, the other debug exceptions (43_other_debug_exceptions.md). -/

namespace Sys2Proof.Machine

/-- `OTHER_SW` (45_summary_table.md R137): handled by the Exception model, in every state. -/
def execOtherSw (e : OtherSoftware) (_a _d _o _h : Bool) (s : State) :
    Host.Outcome State Fault Refusal :=
  .next (s.handToExceptionModel e.event)

end Sys2Proof.Machine
end

