-- ==== Sys2Proof/Machine/SoftwareAccess.lean ====
section
/-! DEFINITION. Rows 14 to 17 of Table H2-1, the Software Access debug event
(41_halting_debug_events.md R83). -/

namespace Sys2Proof.Machine

/-- `SA_NOAUTH` (45_summary_table.md R150): ignored. -/
def execSaNoauth (_d _o _h : Bool) (s : State) : Host.Outcome State Fault Refusal :=
  s.underConditions 0b1000#4 0b0000#4 (.next s.ignoreEvent)

/-- `SA_DLK` (45_summary_table.md R151): ignored. -/
def execSaDlk (_o _h : Bool) (s : State) : Host.Outcome State Fault Refusal :=
  s.underConditions 0b1100#4 0b1100#4 (.next s.ignoreEvent)

/-- `SA_OSLK` (45_summary_table.md R152): ignored. -/
def execSaOslk (_h : Bool) (s : State) : Host.Outcome State Fault Refusal :=
  s.underConditions 0b1110#4 0b1010#4 (.next s.ignoreEvent)

/-- `SA_HALT` (45_summary_table.md R153): entry to Debug state; in Debug state ignored (R159). -/
def execSaHalt (_h : Bool) (s : State) : Host.Outcome State Fault Refusal :=
  s.underConditions 0b1110#4 0b1000#4
    (s.unlessHalted (.next (s.enterOrHold .softwareAccess)) (.next s.ignoreEvent))

end Sys2Proof.Machine
end

