-- ==== Sys2Proof/Machine/Dispatch.lean ====
section
/-! DEFINITION. One arm per row of the opcode table. -/

namespace Sys2Proof.Machine

def exec (i : Instr) (s : State) : Host.Outcome State Fault Refusal :=
  match i with
  | .otherSw e a d o h => Sys2Proof.Machine.execOtherSw e a d o h s
  | .bwDlk e a o h => Sys2Proof.Machine.execBwDlk e a o h s
  | .bwOslk e a h => Sys2Proof.Machine.execBwOslk e a h s
  | .bwNoauth e h => Sys2Proof.Machine.execBwNoauth e h s
  | .bwHde0 e => Sys2Proof.Machine.execBwHde0 e s
  | .bwHalt e => Sys2Proof.Machine.execBwHalt e s
  | .hltNoauth d o h => Sys2Proof.Machine.execHltNoauth d o h s
  | .hltDlk o h => Sys2Proof.Machine.execHltDlk o h s
  | .hltHde0 o => Sys2Proof.Machine.execHltHde0 o s
  | .hltHalt o => Sys2Proof.Machine.execHltHalt o s
  | .ecNoauth p d o h => Sys2Proof.Machine.execEcNoauth p d o h s
  | .ecDlk p o h => Sys2Proof.Machine.execEcDlk p o h s
  | .ecHalt p o h => Sys2Proof.Machine.execEcHalt p o h s
  | .saNoauth d o h => Sys2Proof.Machine.execSaNoauth d o h s
  | .saDlk o h => Sys2Proof.Machine.execSaDlk o h s
  | .saOslk h => Sys2Proof.Machine.execSaOslk h s
  | .saHalt h => Sys2Proof.Machine.execSaHalt h s
  | .ohNoauth e d o h => Sys2Proof.Machine.execOhNoauth e d o h s
  | .ohDlk e o h => Sys2Proof.Machine.execOhDlk e o h s
  | .ohHalt e o h => Sys2Proof.Machine.execOhHalt e o h s
  | .hltA64 imm16 => Sys2Proof.Machine.execHltA64 imm16 s
  | .hltA32 cond imm12 imm4 => Sys2Proof.Machine.execHltA32 cond imm12 imm4 s
  | .hltT32 imm6 => Sys2Proof.Machine.execHltT32 imm6 s

end Sys2Proof.Machine
end

