-- ==== Sys2Proof/Machine/Actions.lean ====
section
/-! DEFINITION. The outcome of a debug event by the rules of the text (41_halting_debug_events.md,
42_breakpoint_watchpoint.md, 43_other_debug_exceptions.md), independent of Table H2-1, and several
synchronous events of one instruction (60_exceptions.md R192). -/

namespace Sys2Proof.Machine

/-! ## Halting debug events (41_halting_debug_events.md) -/

/-- `TypeCondition(e)` (R72, R73, R74). -/
def State.typeCondition (s : State) : Event → Bool
  | .haltInstruction => s.hde
  | .softwareAccess  => !s.oslk
  | _                => true

/-- `ExceptionCatchNotHalting()` (R78). -/
def State.exceptionCatchNotHaltingAction (s : State) : EventOutcome :=
  if !s.params.featDebugv8p8 then .ignored
  else if !s.halted && s.authenticationAllows && s.doubleLockStatus then .ignored
  else if s.exceptionCatchPends then .pended
  else .ignored

/-- What becomes of a Halting debug event that does not cause entry (R76 to R79). -/
def State.notEnteringAction (s : State) : Event → EventOutcome
  | .haltInstruction  => .treatedAsUndefined
  | .softwareAccess   => .ignored
  | .exceptionCatch _ => s.exceptionCatchNotHaltingAction
  | _                 => .pended

/-- `HaltingDebugEventAction(e)` (R71, R81). -/
def State.haltingDebugEventAction (s : State) (e : Event) : EventOutcome :=
  if s.haltingAllowed && s.typeCondition e then .enterDebugState else s.notEnteringAction e

/-! ## Breakpoints, watchpoints and the other debug exceptions -/

/-- `BWNotHalting(e)` (42_breakpoint_watchpoint.md R94). -/
def State.bwNotHalting (s : State) : EventOutcome :=
  if s.doubleLockStatus then .ignored
  else if s.oslk then .ignored
  else .exceptionModel

/-- `BreakpointOrWatchpointAction(e)` (42_breakpoint_watchpoint.md R97). -/
def State.breakpointOrWatchpointAction (s : State) : EventOutcome :=
  if s.haltOnBreakpointOrWatchpoint then .enterDebugState else s.bwNotHalting

/-- `DebugEventAction(e)` (45_summary_table.md R157). -/
def State.debugEventAction (s : State) (e : Event) : EventOutcome :=
  match e with
  | .haltInstruction | .softwareAccess | .exceptionCatch _ | .haltingStep
  | .externalDebugRequest | .resetCatch | .osUnlockCatch => s.haltingDebugEventAction e
  | .breakpoint _ | .watchpoint => s.breakpointOrWatchpointAction
  | .breakpointInstruction | .softwareStep | .vectorCatch _ => .exceptionModel

/-- Whether a debug event is a breakpoint of the type that is reserved in the state
(42_breakpoint_watchpoint.md R91). -/
def State.reservedBreakpoint (s : State) (e : Event) : Bool :=
  e == .breakpoint .addressMismatch && s.haltOnBreakpointOrWatchpoint

/-- The PE acts on the outcome of a debug event. The External Debug Request and OS Unlock Catch debug
events reach Debug state through `Pending` (41_halting_debug_events.md R86, R88). -/
def State.perform (s : State) (e : Event) : EventOutcome → State
  | .enterDebugState =>
    if e.asynchronous then
      match e.type.pendable with
      | some p => s.pendEvent p
      | none   => s.ignoreEvent
    else s.enterOrHold e.type
  | .pended =>
    match e.type.pendable with
    | some p => s.pendEvent p
    | none   => s.ignoreEvent
  | .debugException =>
    { s with handed := s.handed ++ e.exceptionKind.toList, outcome := some .debugException }
  | .ignored            => s.ignoreEvent
  | .treatedAsUndefined => s.raiseUndefined
  | .exceptionModel     => s.handToExceptionModel e

/-- A debug event, by the rules of the text alone (45_summary_table.md R157). -/
def State.evaluate (s : State) (e : Event) : Host.Outcome State Fault Refusal :=
  if s.reservedBreakpoint e then .refused .addressMismatchReserved
  else .next (s.perform e (s.debugEventAction e))

/-! ## Simultaneous events (60_exceptions.md R192) -/

/-- What is taken when an event of the set is selected. -/
inductive Taking where
  /-- Entry to Debug state for a synchronous debug event. -/
  | enter (e : Event)
  /-- The event goes to the Exception model. -/
  | exceptionModel (e : Event)
  /-- The halt instruction is UNDEFINED. -/
  | undefined
  /-- A synchronous exception that is no debug event. -/
  | nonDebug (place : Nat)
deriving DecidableEq, Repr

/-- An event of the set `S` with its place in the priority list. -/
structure Candidate where
  priority : Nat
  taking   : Taking
deriving DecidableEq, Repr

/-- The place at which an event competes: its `SyncPriority`, or for an exception whose place the
spec does not give a free one among the places that are not debug events (R181). -/
def Event.competesAt (e : Event) : Nat :=
  match e.syncPriority with
  | some n => n
  | none   => (e.exceptionKind.map ExceptionKind.place).getD 4

/-- The candidate a generated event makes: none for an event whose outcome is to be ignored or pended,
which does not compete (R182, R192). An event whose outcome is the Exception model's competes whatever
the Exception model then answers, and drops the events after it also where it is then ignored: R192 says
so of breakpoints and watchpoints; for a Software Step, a Breakpoint Instruction and a Vector Catch event
the spec leaves it open and it is the model's own, DESIGN CHOICE (notes/assumptions/37.md). -/
def State.candidate (s : State) : Generated → Option Candidate
  | .nonDebug place => some ⟨place, .nonDebug place⟩
  | .event e =>
    match s.debugEventAction e with
    | .enterDebugState    => some ⟨Event.competesAt e, .enter e⟩
    | .exceptionModel     => some ⟨Event.competesAt e, .exceptionModel e⟩
    | .treatedAsUndefined => some ⟨ExceptionKind.undefinedInstruction.place, .undefined⟩
    | _                   => none

/-- The entry of `Pending` that a generated event adds before the selection (R182). -/
def State.pendedBy (s : State) : Generated → Option Pendable
  | .nonDebug _ => none
  | .event e    => if s.debugEventAction e = .pended then e.type.pendable else none

/-- The events that are pended and not taken (R182), and the outcome if no event competes. -/
def State.pendAll (s : State) (gs : List Generated) : State :=
  { s with
    pending := (gs.filterMap s.pendedBy).foldl Pending.insert s.pending
    outcome := some (if gs.any fun g => (s.pendedBy g).isSome then .pended else .ignored) }

/-- The candidates of the least place: those the selection is between (R178). -/
def leading (cs : List Candidate) : List Candidate :=
  cs.filter fun c => cs.all fun d => c.priority ≤ d.priority

/-- The event selected: the only candidate of the least place, or one of several, chosen by a free
value (R184 for a Breakpoint debug event and an Address Matching Vector Catch exception; otherwise
the order is the Exception model's). -/
def State.select (s : State) (cs : List Candidate) : Option Candidate :=
  match leading cs with
  | []      => none
  | [c]     => some c
  | c :: ds => some ((c :: ds).getD (Config.tieBreak s.tick % (c :: ds).length) c)

/-- The PE takes the selected event; the others are dropped (R192). An exception that is no debug
event leaves no outcome of a debug event. -/
def State.performTaking (s : State) : Taking → State
  | .enter e          => s.enterOrHold e.type
  | .exceptionModel e => s.handToExceptionModel e
  | .undefined        => s.raiseUndefined
  | .nonDebug place   =>
    { s with handed := s.handed ++ [.nonDebug place], outcome := none }

/-- An Exception Trapping Vector Catch exception "must be generated immediately following the
exception that generated it" (R185): it follows in the same step if an exception was handed over. -/
def State.trapAfter (s : State) (before : State) (trapping : Bool) : State :=
  if trapping && s.handed.length != before.handed.length then
    s.handToExceptionModel (.vectorCatch .exceptionTrapping)
  else s

/-- Whether a generated event is a breakpoint of the reserved type (42_breakpoint_watchpoint.md
R91). -/
def State.reservedIn (s : State) : Generated → Bool
  | .event e    => s.reservedBreakpoint e
  | .nonDebug _ => false

/-- `SelectSynchronous(S)` (R192), with the events that are pended before it (R182). -/
def State.selectSynchronous (s : State) (gs : List Generated) (trapping : Bool) :
    Host.Outcome State Fault Refusal :=
  if gs.any s.reservedIn then .refused .addressMismatchReserved
  else
    match s.select (gs.filterMap s.candidate) with
    | none   => .next (s.pendAll gs)
    | some c => .next (((s.pendAll gs).performTaking c.taking).trapAfter s trapping)

end Sys2Proof.Machine
end

