-- ==== Sys2Proof/Machine/Environment.lean ====
section
/-! DEFINITION. Changes of the controls and inputs (10_state.md, 20_memory.md R42) and reset
(70_reset_and_hazards.md R210). -/

namespace Sys2Proof.Machine

/-- The authentication input of one Security state changes (10_state.md R12). -/
def State.setAuth (s : State) (v : Bool) : SecurityState → State
  | .nonSecure => { s with authNs := v }
  | .secure    => { s with authS := v }
  | .realm     => { s with authRl := v }
  | .root      => { s with authRt := v }

/-- Whether a write of the OS Lock is trapped: "a write to an OS Lock register by less privileged
software is trapped instead of performed" while a `TDOSA` control is set (10_state.md R17). -/
def State.osLockWriteTrapped (s : State) (lessPrivileged : Bool) : Bool :=
  lessPrivileged && (s.tdosaEl3 || s.tdosaHyp)

/-- One control or input changes, at once (20_memory.md R42). -/
def State.change (s : State) : Control → State
  | .hde _ v       => { s with hde := v }
  | .oslk less v   =>
    if s.osLockWriteTrapped less then { s with handed := s.handed ++ [.osLockWriteTrap] }
    else { s with oslk := v }
  | .doubleLock v  => { s with osDoubleLockLocked := v }
  | .mde v         => { s with mde := v }
  | .mdbgen v      => { s with mdbgen := v }
  | .tdosaEl3 v    => { s with tdosaEl3 := v }
  | .tdosaHyp v    => { s with tdosaHyp := v }
  | .security x    => { s with security := x }
  | .execState x   => { s with execState := x }
  | .auth x v      => s.setAuth v x
  | .precise v     => { s with canReachPreciseState := v }
  | .outstanding n => { s with outstanding := n }

/-- A change as a step of its own. While an entry to Debug state is held, a change of an input of
its outcome leaves the run without meaning (40_outcomes_and_halting_allowed.md R62). -/
def changeControl (c : Control) (s : State) : Host.Outcome State Fault Refusal :=
  if s.held.isSome ∧ (s.change c).outcomeInputs ≠ s.outcomeInputs then .refused .conditionsChanged
  else .next (s.change c)

/-- A debug event: the row of Table H2-1 that the event and the state's conditions select is run
(45_summary_table.md R157, R158). -/
def generate (e : Event) (s : State) : Host.Outcome State Fault Refusal :=
  exec (rowOf e s.conditions) s

/-- A change in the same step as an event is evaluated is refused where it changes an input of the
outcome (20_memory.md R42). An asynchronous event is not evaluated when it is generated but when it is
taken (40_outcomes_and_halting_allowed.md R62), so its generation refuses a change only as
`changeControl` does, while an entry is held. Where nothing is refused the change is made first and
the event meets the changed state: DESIGN CHOICE, the spec gives no order (notes/assumptions/36.md). -/
def changeDuringEvent (c : Control) (e : Event) (s : State) : Host.Outcome State Fault Refusal :=
  if (!e.asynchronous || s.held.isSome) ∧ (s.change c).outcomeInputs ≠ s.outcomeInputs then
    .refused .conditionsChanged
  else generate e (s.change c)

/-- The state a reset leaves: `init` (70_reset_and_hazards.md R211), with the parameters and the
steps to come as they were. -/
def State.resetTo (s : State) (i : Init) : State :=
  { State.ofInit s.params i s.agenda with tick := s.tick }

/-- A reset in Non-debug state. A Reset Catch debug event it generates is evaluated on the state
after the reset has been processed, before any instruction (60_exceptions.md R172, R173;
70_reset_and_hazards.md R210). In Debug state the model has no step that leaves it
(60_exceptions.md R196). -/
def resetMachine (i : Init) (generatesCatch : Bool) (s : State) :
    Host.Outcome State Fault Refusal :=
  if s.halted then .next s
  else if generatesCatch then generate .resetCatch (s.resetTo i)
  else .next (s.resetTo i)

end Sys2Proof.Machine
end

