-- ==== Sys2Proof/Machine/Moves.lean ====
section
/-! DEFINITION. The meaning of each step of the agents, and placing an instruction where the next
step fetches it. -/

namespace Sys2Proof.Machine

/-- The PE reads an instruction word and runs the instruction in it. -/
def runWord (w : Word) (s : State) : Host.Outcome State Fault Refusal :=
  match decode w with
  | .ok i       => exec i s
  | .error why  => .refused (.undecoded why)

/-- The meaning of a well-formed step that is not held back. -/
def actFreely (m : Move) (s : State) : Host.Outcome State Fault Refusal :=
  match m with
  | .word w               => runWord w s
  | .event e              => generate e s
  | .simultaneous gs trap => s.selectSynchronous gs trap
  | .during c e           => changeDuringEvent c e s
  | .control c            => changeControl c s
  | .writeCbrrq v         => writeCbrrq v s
  | .take p               => takePending p s
  | .impreciseEntry       => impreciseEntry s
  | .dropPending p        => dropPending p s
  | .writeItr k           => writeItr k s
  | .runItr after         => runItr after s
  | .executes after       => executeOrdinary after s
  | .exceptionModelTakes  => exceptionModelTakes s
  | .reset i gen          => resetMachine i gen s

/-- One step of an agent. An ill-formed one is a fault. While an entry to Debug state is held, no
instruction is executed (60_exceptions.md R171), so a step that needs one does not take place
(notes/assumptions/6.md). -/
def act (m : Move) (s : State) : Host.Outcome State Fault Refusal :=
  if m.wellFormed s.params then
    if s.held.isSome && m.needsExecution then .next s else actFreely m s
  else .fault .illFormedMove

/-- The state with one more step counted. -/
def State.tickOn (s : State) : State := { s with tick := s.tick + 1 }

/-- Whether the PE executes an instruction next, or nothing else is to come. -/
def State.instructionNext (s : State) : Bool :=
  match s.agenda with
  | []     => true
  | m :: _ => m.needsExecution

/-- The next step of the agenda, if there is one. -/
def State.stepAgenda (s : State) : Host.Outcome State Fault Refusal :=
  match s.agenda with
  | []        => .next s.tickOn
  | m :: rest => act m { s.tickOn with agenda := rest }

/-- One step of the machine: the next step of the agenda, but that a held entry to Debug state that can
now be precise is taken before the PE executes any instruction (44_imprecise_entry.md R111,
60_exceptions.md R171). A step of another agent, the taking of a pended event and the imprecise entry
may come before it (60_exceptions.md R188, 44_imprecise_entry.md R113 and R120;
notes/assumptions/6.md). -/
def stepOnce (s : State) : Host.Outcome State Fault Refusal :=
  match s.held with
  | none => s.stepAgenda
  | some cause =>
    if s.canReachPreciseState && s.instructionNext then .next (s.tickOn.enterDebugState cause true)
    else s.stepAgenda

/-! ## Placing an instruction -/

/-- The state whose conditions are `c`: Non-debug state, where the rows of the table hold
(45_summary_table.md R159), and the four conditions as given. -/
def State.withConditions (s : State) (c : Conditions) : State :=
  ({ s with
      halted             := false
      params             := { s.params with featDoubleLock := s.params.featDoubleLock || c.dlk }
      osDoubleLockLocked := c.dlk
      oslk               := c.oslk
      hde                := c.hde }).setAuth c.auth s.security

/-- The state in which the next step reads the word `x` and runs its instruction: the word at the
head of the agenda, no held entry before it, and for a word of Table H2-1 the conditions it was
evaluated under. -/
def State.withWord (s : State) (x : Word) : State :=
  let s := { s with agenda := .word x :: s.agenda, held := none }
  match decode x with
  | .error _ => s
  | .ok i =>
    match i.eventAndConditions with
    | some (_, c) => s.withConditions c
    | none        => s

end Sys2Proof.Machine
end

