-- ==== Sys2Proof/Safety.lean ====
section
/-! DEFINITION. What the statements call a state at a row of the table, a state that no rule rules
out, and an entry to Debug state. -/

namespace Sys2Proof

/-- The five event types that can be pended and the four others that can halt the PE: all but the
three that "never generate entry to Debug state" (43_other_debug_exceptions.md R100). -/
def EventType.canHalt : EventType → Bool
  | .breakpointInstruction | .softwareStep | .vectorCatch => false
  | _ => true

/-- The seven Halting debug events (41_halting_debug_events.md R70). -/
def Event.halting : Event → Bool
  | .haltInstruction | .softwareAccess | .exceptionCatch _ | .haltingStep
  | .externalDebugRequest | .resetCatch | .osUnlockCatch => true
  | _ => false

/-- The priority number of an event of the set `S` (60_exceptions.md R179, R181): `SyncPriority` of a
debug event, and a non-debug exception's own place. -/
def Generated.priority : Generated → Option Nat
  | .event e        => e.syncPriority
  | .nonDebug place => some place

namespace Machine

/-- The PE is in Non-debug state, where the rows of Table H2-1 hold (45_summary_table.md R159), and
its Authentication, DLK, OSLK and HDE are `a`, `d`, `o` and `h` (R132 to R135). -/
def State.AtRow (s : State) (a d o h : Bool) : Prop :=
  s.halted = false ∧ s.authenticationAllows = a ∧ s.doubleLockStatus = d ∧ s.oslk = o ∧ s.hde = h

/-- The entry condition of a synchronous event type: halting is allowed and the type's own condition
holds (41_halting_debug_events.md R71 to R74, 42_breakpoint_watchpoint.md R90). -/
def State.entryConditionOf (s : State) : EventType → Bool
  | .haltInstruction        => s.haltingAllowed && s.hde
  | .softwareAccess         => s.haltingAllowed && !s.oslk
  | .breakpoint             => s.haltOnBreakpointOrWatchpoint
  | .watchpoint             => s.haltOnBreakpointOrWatchpoint
  | .exceptionCatch         => s.haltingAllowed
  | .haltingStep            => s.haltingAllowed
  | .resetCatch             => s.haltingAllowed
  | _                       => false

/-- The invariant of the machine: the PE is in a Security state it implements (10_state.md R11);
`ExceptionCatch` is pending only with `FEAT_Debugv8p8` (R21); a `CBRRQ` request exists only where the
feature does (44_imprecise_entry.md R113); a recorded entry has a cause that can halt the PE and the
PE is in Debug state (60_exceptions.md R195); an imprecise entry was forced for an External Debug
Request (44_imprecise_entry.md R116); a held entry still meets its entry condition (R111). -/
def State.Inv (s : State) : Prop :=
  s.params.implements s.security = true ∧
  (s.pending.exceptionCatch = true → s.params.featDebugv8p8 = true) ∧
  (s.cbrrqRequested = true → s.params.cbrrq = true) ∧
  (∀ c, s.entryCause = some c → s.halted = true ∧ c.canHalt = true) ∧
  (s.entryImprecise = true → s.entryCause = some .externalDebugRequest) ∧
  (∀ c, s.held = some c → s.entryConditionOf c = true)

/-- The PE goes from Non-debug state into Debug state. -/
def EntersDebugState (s t : State) : Prop := s.halted = false ∧ t.halted = true

/-- The outcome with every next state mapped. -/
def mapNext (f : State → State) :
    Host.Outcome State Fault Refusal → Host.Outcome State Fault Refusal
  | .next t    => .next (f t)
  | .fault r   => .fault r
  | .refused r => .refused r

/-- The state in which the next step of the agenda takes place: the step taken off the agenda and
counted. -/
def State.advance (s : State) (rest : List Move) : State :=
  { s with agenda := rest, tick := s.tick + 1 }

end Machine

end Sys2Proof
end

