-- ==== Sys2Proof/Certificates/Slice0/Obligations.lean ====
section
/-! DEFINITION. The statements for the provers. Each says in its docstring which rule of spec/ it
formalises. An equation `… = .next { s with … }` states the result and the whole frame: every field
of the state that it does not name is unchanged. The hardware has no memory (20_memory.md R40). -/

open Sys2Proof Sys2Proof.Machine

/-! ## The rows of Table H2-1 -/

/-- Row 1 (R137): in every state, Debug state included, and with every value of its four columns, an
"Other software" event goes to the Exception model: a debug exception is handed over or the event is
ignored, as the oracle says. -/
def Obligations.OtherSoftwareGoesToExceptionModel : Prop :=
  ∀ (e : OtherSoftware) (a d o h : Bool) (s : State),
    exec (.otherSw e a d o h) s =
      .next { s with
        handed  := if s.exceptionGenerated e.event then s.handed ++ e.event.exceptionKind.toList
          else s.handed
        outcome := some (if s.exceptionGenerated e.event then .debugException else .ignored) }

/-- Row 2 (R138): with DLK TRUE a breakpoint or watchpoint is ignored. -/
def Obligations.BreakOrWatchIgnoredUnderDoubleLock : Prop :=
  ∀ (e : BreakOrWatch) (a o h : Bool) (s : State), s.AtRow a true o h →
    exec (.bwDlk e a o h) s = .next { s with outcome := some .ignored }

/-- Row 3 (R139): with DLK FALSE and the OS Lock locked a breakpoint or watchpoint is ignored. -/
def Obligations.BreakOrWatchIgnoredUnderOsLock : Prop :=
  ∀ (e : BreakOrWatch) (a h : Bool) (s : State), s.AtRow a false true h →
    exec (.bwOslk e a h) s = .next { s with outcome := some .ignored }

/-- Rows 4 and 5 (R140, R141): with the locks open, a breakpoint or watchpoint that authentication or
`HDE == 0` keeps from halting goes to the Exception model. -/
def Obligations.BreakOrWatchGoesToExceptionModel : Prop :=
  (∀ (e : BreakOrWatch) (h : Bool) (s : State), s.AtRow false false false h →
    exec (.bwNoauth e h) s = .next { s with
      handed  := if s.exceptionGenerated e.event then s.handed ++ e.event.exceptionKind.toList
        else s.handed
      outcome := some (if s.exceptionGenerated e.event then .debugException else .ignored) }) ∧
  (∀ (e : BreakOrWatch) (s : State), s.AtRow true false false false →
    exec (.bwHde0 e) s = .next { s with
      handed  := if s.exceptionGenerated e.event then s.handed ++ e.event.exceptionKind.toList
        else s.handed
      outcome := some (if s.exceptionGenerated e.event then .debugException else .ignored) })

/-- Row 6 (R142): a breakpoint or watchpoint enters Debug state, with no debug exception. A
breakpoint of the reserved type is the subject of `ReservedBreakpointRefused`; an entry that cannot
be precise, of `EntryHeldUntilPrecise`. -/
def Obligations.BreakOrWatchEntersDebugState : Prop :=
  ∀ (e : BreakOrWatch) (s : State), s.AtRow true false false true →
    e ≠ .breakpoint .addressMismatch → s.canReachPreciseState = true →
    exec (.bwHalt e) s = .next { s with
      halted         := true
      entryCause     := some e.event.type
      entryImprecise := false
      cbrrqRequested := false
      held           := none
      outcome        := some .enterDebugState }

/-- R91: a breakpoint of the Address Mismatch type is refused where halting debug is enabled, halting
is allowed and the OS Lock is unlocked, and only there. -/
def Obligations.ReservedBreakpointRefused : Prop :=
  (∀ s : State, s.hde = true → s.haltingAllowed = true → s.oslk = false →
    generate (.breakpoint .addressMismatch) s = .refused .addressMismatchReserved) ∧
  (∀ s : State, s.hde = false ∨ s.haltingAllowed = false ∨ s.oslk = true →
    ∃ t, generate (.breakpoint .addressMismatch) s = .next t ∧
      (t.outcome = some .ignored ∨ t.outcome = some .debugException))

/-- Rows 7, 8 and 9 (R143, R144, R145): the halt instruction is UNDEFINED; the debug event leaves
nothing else behind. -/
def Obligations.HaltInstructionUndefined : Prop :=
  (∀ (d o h : Bool) (s : State), s.AtRow false d o h →
    exec (.hltNoauth d o h) s = .next { s with
      handed := s.handed ++ [.undefinedInstruction], outcome := some .treatedAsUndefined }) ∧
  (∀ (o h : Bool) (s : State), s.AtRow true true o h →
    exec (.hltDlk o h) s = .next { s with
      handed := s.handed ++ [.undefinedInstruction], outcome := some .treatedAsUndefined }) ∧
  (∀ (o : Bool) (s : State), s.AtRow true false o false →
    exec (.hltHde0 o) s = .next { s with
      handed := s.handed ++ [.undefinedInstruction], outcome := some .treatedAsUndefined })

/-- Row 10 (R146): the halt instruction enters Debug state, whatever the OS Lock. -/
def Obligations.HaltInstructionEntersDebugState : Prop :=
  ∀ (o : Bool) (s : State), s.AtRow true false o true → s.canReachPreciseState = true →
    exec (.hltHalt o) s = .next { s with
      halted         := true
      entryCause     := some .haltInstruction
      entryImprecise := false
      cbrrqRequested := false
      held           := none
      outcome        := some .enterDebugState }

/-- Rows 11 and 12 (R147, R148): with authentication failing an Exception Catch debug event is ignored
without `FEAT_Debugv8p8`, and with it pended or ignored as the oracle says; with authentication passing
and DLK TRUE it is ignored, also with `FEAT_Debugv8p8`. -/
def Obligations.ExceptionCatchPendedOrIgnored : Prop :=
  (∀ (p : CatchPriority) (d o h : Bool) (s : State), s.AtRow false d o h →
    (s.params.featDebugv8p8 = false →
      exec (.ecNoauth p d o h) s = .next { s with outcome := some .ignored }) ∧
    (s.params.featDebugv8p8 = true →
      exec (.ecNoauth p d o h) s = .next (
        if s.exceptionCatchPends then
          { s with pending := { s.pending with exceptionCatch := true }, outcome := some .pended }
        else { s with outcome := some .ignored }))) ∧
  (∀ (p : CatchPriority) (o h : Bool) (s : State), s.AtRow true true o h →
    exec (.ecDlk p o h) s = .next { s with outcome := some .ignored })

/-- Row 13 (R149): entry to Debug state, whatever the OS Lock and `HDE`. -/
def Obligations.ExceptionCatchEntersDebugState : Prop :=
  ∀ (p : CatchPriority) (o h : Bool) (s : State), s.AtRow true false o h →
    s.canReachPreciseState = true →
    exec (.ecHalt p o h) s = .next { s with
      halted         := true
      entryCause     := some .exceptionCatch
      entryImprecise := false
      pending        := { s.pending with exceptionCatch := false }
      cbrrqRequested := false
      held           := none
      outcome        := some .enterDebugState }

/-- Rows 14, 15 and 16 (R150, R151, R152): a Software Access debug event is ignored. -/
def Obligations.SoftwareAccessIgnored : Prop :=
  (∀ (d o h : Bool) (s : State), s.AtRow false d o h →
    exec (.saNoauth d o h) s = .next { s with outcome := some .ignored }) ∧
  (∀ (o h : Bool) (s : State), s.AtRow true true o h →
    exec (.saDlk o h) s = .next { s with outcome := some .ignored }) ∧
  (∀ (h : Bool) (s : State), s.AtRow true false true h →
    exec (.saOslk h) s = .next { s with outcome := some .ignored })

/-- Row 17 (R153): a Software Access debug event enters Debug state, whatever `HDE`. -/
def Obligations.SoftwareAccessEntersDebugState : Prop :=
  ∀ (h : Bool) (s : State), s.AtRow true false false h → s.canReachPreciseState = true →
    exec (.saHalt h) s = .next { s with
      halted         := true
      entryCause     := some .softwareAccess
      entryImprecise := false
      cbrrqRequested := false
      held           := none
      outcome        := some .enterDebugState }

/-- Rows 18 and 19 (R154, R155): the four other Halting debug events are pended. -/
def Obligations.OtherHaltingPended : Prop :=
  (∀ (e : OtherHalting) (d o h : Bool) (s : State), s.AtRow false d o h →
    exec (.ohNoauth e d o h) s = .next { s with
      pending := s.pending.insert e.pendable, outcome := some .pended }) ∧
  (∀ (e : OtherHalting) (o h : Bool) (s : State), s.AtRow true true o h →
    exec (.ohDlk e o h) s = .next { s with
      pending := s.pending.insert e.pendable, outcome := some .pended })

/-- Row 20 (R156): a Halting Step and a Reset Catch debug event enter Debug state at once; an
External Debug Request and an OS Unlock Catch debug event go through `Pending`, from which they can be
taken at once. -/
def Obligations.OtherHaltingEntersDebugState : Prop :=
  ∀ (e : OtherHalting) (o h : Bool) (s : State), s.AtRow true false o h →
    s.canReachPreciseState = true →
    ((e = .haltingStep ∨ e = .resetCatch) →
      exec (.ohHalt e o h) s = .next { s with
        halted         := true
        entryCause     := some e.event.type
        entryImprecise := false
        pending        := s.pending.erase e.pendable
        cbrrqRequested := false
        held           := none
        outcome        := some .enterDebugState }) ∧
    ((e = .externalDebugRequest ∨ e = .osUnlockCatch) →
      ∃ t, t = { s with pending := s.pending.insert e.pendable, outcome := some .pended } ∧
        exec (.ohHalt e o h) s = .next t ∧
        takePending e.pendable t = .next { t with
          halted         := true
          entryCause     := some e.event.type
          entryImprecise := false
          pending        := t.pending.erase e.pendable
          cbrrqRequested := false
          held           := none
          outcome        := some .enterDebugState })

/-- R82: each of the three `HLT` encodings is the halt instruction, whatever its immediate: entry to
Debug state if halting is allowed and `HDE == 1`, else UNDEFINED. -/
def Obligations.HltEncodingsHaltOrAreUndefined : Prop :=
  ∀ (i : Instr) (s : State),
    ((∃ imm, i = .hltA64 imm) ∨ (∃ imm12 imm4, i = .hltA32 0b1110#4 imm12 imm4) ∨
      (∃ imm, i = .hltT32 imm)) →
    (s.haltingAllowed = true → s.hde = true → s.canReachPreciseState = true →
      exec i s = .next { s with
        halted         := true
        entryCause     := some .haltInstruction
        entryImprecise := false
        cbrrqRequested := false
        held           := none
        outcome        := some .enterDebugState }) ∧
    (s.haltingAllowed = false ∨ s.hde = false →
      exec i s = .next { s with
        handed := s.handed ++ [.undefinedInstruction], outcome := some .treatedAsUndefined })

/-- R82 and rows 7 to 10: a well-formed `HLT` encoding does in every state what the row of Table
H2-1 selected for a Halt Instruction debug event does. -/
def Obligations.HltEncodingsAgreeWithTheTable : Prop :=
  ∀ (i : Instr) (s : State), i.wellFormed = true → i.eventAndConditions = none →
    exec i s = generate .haltInstruction s

/-- R52: `cond` "must be 1110"; the model's choice for any other value is a refusal by name
(notes/assumptions/5.md). -/
def Obligations.HltA32ConditionRefused : Prop :=
  ∀ (cond : BitVec 4) (imm12 : BitVec 12) (imm4 : BitVec 4) (s : State), cond ≠ 0b1110#4 →
    exec (.hltA32 cond imm12 imm4) s = .refused .hltConditionNot1110

/-! ## The table and the rules of the text -/

/-- R157: the row of Table H2-1 selected for an event does, in every state, exactly what the
functions of the text give the event. -/
def Obligations.TableAgreesWithTheText : Prop :=
  ∀ (e : Event) (s : State), exec (rowOf e s.conditions) s = s.evaluate e

/-- R158: exactly one row of the table takes an event under a condition vector, by the masks of the
table, and it is the row the model runs. -/
def Obligations.ExactlyOneRowTakesAnEvent : Prop :=
  ∀ (e : Event) (c : Conditions),
    ∃ r, tableRows.filter (fun x => x.takes e c) = [r] ∧
      (rowOf e c).tableRowNumber = some r.number

/-- R60: on a debug event the PE enters Debug state, pends the event, generates a debug exception,
ignores the event, or treats the instruction as UNDEFINED: exactly one, and nothing besides. An entry
that cannot be precise is held (R111); that the model records the held event, with the outcome of
entry, is its own choice (notes/assumptions/6.md). -/
def Obligations.DebugEventHasExactlyOneOutcome : Prop :=
  ∀ (e : Event) (s t : State), generate e s = .next t →
    ∃ o, t.outcome = some o ∧
      match o with
      | .enterDebugState =>
        t = s.enterDebugState e.type true ∨
        t = { s with held := some e.type, outcome := some .enterDebugState }
      | .pended =>
        ∃ p, e.type.pendable = some p ∧
          t = { s with pending := s.pending.insert p, outcome := some .pended }
      | .debugException =>
        ∃ k, e.exceptionKind = some k ∧
          t = { s with handed := s.handed ++ [k], outcome := some .debugException }
      | .ignored => t = { s with outcome := some .ignored }
      | .treatedAsUndefined =>
        e = .haltInstruction ∧
          t = { s with handed := s.handed ++ [.undefinedInstruction],
                       outcome := some .treatedAsUndefined }
      | .exceptionModel => False

/-- R159: in Debug state a halt instruction is UNDEFINED, a Software Access debug event is ignored, an
Exception Catch debug event might be pended, the other Halting debug events are pended, and a
breakpoint or watchpoint is handled by the Exception model. -/
def Obligations.EventsInDebugState : Prop :=
  ∀ s : State, s.halted = true →
    generate .haltInstruction s = .next { s with
      handed := s.handed ++ [.undefinedInstruction], outcome := some .treatedAsUndefined } ∧
    generate .softwareAccess s = .next { s with outcome := some .ignored } ∧
    (∀ p, generate (.exceptionCatch p) s =
      if s.params.featDebugv8p8 = true ∧ s.exceptionCatchPends = true then
        .next { s with pending := { s.pending with exceptionCatch := true },
                       outcome := some .pended }
      else .next { s with outcome := some .ignored }) ∧
    (∀ e : OtherHalting, generate e.event s = .next { s with
      pending := s.pending.insert e.pendable, outcome := some .pended }) ∧
    (∀ e : BreakOrWatch, generate e.event s =
      if s.doubleLockStatus = true ∨ s.oslk = true then .next { s with outcome := some .ignored }
      else .next { s with
        handed  := if s.exceptionGenerated e.event then s.handed ++ e.event.exceptionKind.toList
          else s.handed
        outcome := some (if s.exceptionGenerated e.event then .debugException else .ignored) })

/-- R80 and R100: no Halting debug event generates a debug exception (the only exception one leaves is
the halt instruction's own, UNDEFINED); no other debug exception generates entry to Debug state or is
pended, in any state. -/
def Obligations.HaltingEventsAndDebugExceptionsApart : Prop :=
  (∀ (e : Event) (s t : State), e.halting = true → generate e s = .next t →
    t.outcome ≠ some .debugException ∧ t.outcome ≠ some .exceptionModel ∧
    (t.handed = s.handed ∨
      (e = .haltInstruction ∧ t.handed = s.handed ++ [.undefinedInstruction]))) ∧
  (∀ (e : OtherSoftware) (s : State), ∃ t, generate e.event s = .next t ∧
    t.halted = s.halted ∧ t.held = s.held ∧ t.pending = s.pending ∧
    (t.outcome = some .debugException ∨ t.outcome = some .ignored))

/-- R95, R96 and R101: where a breakpoint or watchpoint does not halt, with either value of `HDE`, it
is handled exactly as with the other value (so it is in a Security state whose authentication input is
FALSE); the other debug exceptions are handled alike with both values in every state. -/
def Obligations.DebugExceptionsDoNotReadHde : Prop :=
  (∀ (e : BreakOrWatch) (v : Bool) (s : State),
    s.haltOnBreakpointOrWatchpoint = false →
    ({ s with hde := v } : State).haltOnBreakpointOrWatchpoint = false →
    generate e.event { s with hde := v } =
      mapNext (fun t => { t with hde := v }) (generate e.event s)) ∧
  (∀ (e : OtherSoftware) (v : Bool) (s : State),
    generate e.event { s with hde := v } =
      mapNext (fun t => { t with hde := v }) (generate e.event s))

/-- R92: whether a breakpoint or watchpoint enters Debug state does not depend on `MDSCR_EL1.MDE` or
`DBGDSCRext.MDBGen`. -/
def Obligations.EntryDoesNotReadMdeOrMdbgen : Prop :=
  ∀ (e : BreakOrWatch) (v w : Bool) (s : State),
    (∃ t, generate e.event { s with mde := v, mdbgen := w } = .next t ∧ EntersDebugState s t) ↔
    (∃ t, generate e.event s = .next t ∧ EntersDebugState s t)

/-- R75: with `HDE == 0`, halting allowed and the OS Lock unlocked, a halt instruction is UNDEFINED
and every other Halting debug event still halts: at once, or through `Pending`. -/
def Obligations.OnlyHaltInstructionReliesOnHde : Prop :=
  ∀ (e : Event) (s : State), e.halting = true → s.hde = false → s.haltingAllowed = true →
    s.oslk = false → s.canReachPreciseState = true →
    (e = .haltInstruction →
      ∃ t, generate e s = .next t ∧ t.halted = false ∧ t.outcome = some .treatedAsUndefined) ∧
    (e ≠ .haltInstruction → e.asynchronous = false →
      ∃ t, generate e s = .next t ∧ EntersDebugState s t ∧ t.entryCause = some e.type) ∧
    (∀ p, e.asynchronous = true → e.type.pendable = some p →
      ∃ t u, generate e s = .next t ∧ takePending p t = .next u ∧ EntersDebugState t u ∧
        u.entryCause = some e.type)

/-- R86, R88, R176 and R187: an External Debug Request and an OS Unlock Catch debug event are pended
on generation, in every state, and enter nothing; so is each by every row of the table that is for it,
whatever the state's conditions. -/
def Obligations.AsynchronousEventsAlwaysPended : Prop :=
  ∀ s : State,
    (generate .externalDebugRequest s = .next { s with
      pending := { s.pending with externalDebugRequest := true }, outcome := some .pended }) ∧
    (generate .osUnlockCatch s = .next { s with
      pending := { s.pending with osUnlockCatch := true }, outcome := some .pended }) ∧
    (∀ i c, i.eventAndConditions = some (.externalDebugRequest, c) →
      exec i s = .next { s with
        pending := { s.pending with externalDebugRequest := true }, outcome := some .pended }) ∧
    (∀ i c, i.eventAndConditions = some (.osUnlockCatch, c) →
      exec i s = .next { s with
        pending := { s.pending with osUnlockCatch := true }, outcome := some .pended })

/-! ## Halting allowed -/

/-- R68 (R64 to R67): halting is prohibited in Debug state and under the OS Double Lock; elsewhere it
is the authentication input of the Security state the PE is in. -/
def Obligations.HaltingAllowedByItsClauses : Prop :=
  ∀ s : State,
    (s.halted = true → s.haltingAllowed = false) ∧
    (s.params.featDoubleLock = true → s.osDoubleLockLocked = true → s.haltingAllowed = false) ∧
    (s.halted = false → s.params.featDoubleLock = false ∨ s.osDoubleLockLocked = false →
      (s.security = .nonSecure → s.haltingAllowed = s.authNs) ∧
      (s.security = .secure → s.haltingAllowed = s.authS) ∧
      (s.security = .realm → s.haltingAllowed = s.authRl) ∧
      (s.security = .root → s.haltingAllowed = s.authRt))

/-! ## Holding an entry -/

/-- R111: while the PE cannot reach a precise state, the synchronous event that would halt it is held
and the PE does not enter Debug state; that the model records the held event is its own choice
(notes/assumptions/6.md). -/
def Obligations.EntryHeldUntilPrecise : Prop :=
  ∀ (e : Event) (s : State), e.synchronous = true → s.entryConditionOf e.type = true →
    e ≠ .breakpoint .addressMismatch → s.canReachPreciseState = false →
    generate e s = .next { s with held := some e.type, outcome := some .enterDebugState }

/-- R111 and R171: once the PE can reach a precise state, the held event is taken before the PE
executes any instruction; while it cannot, no step that needs an instruction takes place. A step that
needs none (another agent's, the taking of a pended event, the imprecise entry, the generation of an
asynchronous event) takes place in both cases (R86, R88, R113, R120, R188). That the model records the
held event, and drops a step that needs an instruction meanwhile, is its own choice
(notes/assumptions/6.md). -/
def Obligations.HeldEntryTakenFirst : Prop :=
  ∀ (c : EventType) (s : State), s.held = some c →
    (s.canReachPreciseState = true →
      s.agenda = [] ∨ (∃ m rest, s.agenda = m :: rest ∧ m.needsExecution = true) →
      step s = .next { s with
        halted         := true
        entryCause     := some c
        entryImprecise := false
        pending        := s.pending.eraseType c
        cbrrqRequested := false
        held           := none
        outcome        := some .enterDebugState
        tick           := s.tick + 1 }) ∧
    (s.canReachPreciseState = false → ∀ m rest, s.agenda = m :: rest →
      m.wellFormed s.params = true → m.needsExecution = true →
      step s = .next { s with agenda := rest, tick := s.tick + 1 }) ∧
    (∀ m rest, s.agenda = m :: rest → m.wellFormed s.params = true → m.needsExecution = false →
      step s = actFreely m (s.advance rest))

/-! ## Pending and taking -/

/-- R188: `TakePending` is enabled exactly when the event is pending, halting is allowed and the PE
can reach a precise state, whether or not an entry is held (R120); then it enters Debug state and takes
the event out of `Pending`. Where it
is not enabled there is no such step: the model's step of that name changes nothing
(notes/assumptions/7.md). When a pended event is taken is open: notes/assumptions/24.md. -/
def Obligations.TakePendingTakesOnlyWhenEnabled : Prop :=
  ∀ (p : Pendable) (s : State) (rest : List Move), s.agenda = .take p :: rest →
    (s.pending.has p = true → s.haltingAllowed = true → s.canReachPreciseState = true →
      step s = .next { s with
        halted         := true
        entryCause     := some p.type
        entryImprecise := false
        pending        := s.pending.erase p
        cbrrqRequested := false
        held           := none
        outcome        := some .enterDebugState
        agenda         := rest
        tick           := s.tick + 1 }) ∧
    (s.pending.has p = false ∨ s.haltingAllowed = false ∨ s.canReachPreciseState = false →
      step s = .next { s with agenda := rest, tick := s.tick + 1 })

/-- R186 and R189: pending adds the type and no other, and pending a type already pending changes
nothing; the environment may remove any pended event, with nothing else changed. -/
def Obligations.PendingAddedAndRemoved : Prop :=
  (∀ (s : State) (p q : Pendable),
    (s.pendEvent p).pending.has q = (s.pending.has q || decide (q = p)) ∧
    (s.pending.has p = true → (s.pendEvent p).pending = s.pending)) ∧
  (∀ (p q : Pendable) (s : State) (rest : List Move), s.agenda = .dropPending p :: rest →
    step s = .next { s with
      pending := s.pending.erase p, agenda := rest, tick := s.tick + 1 } ∧
    (s.pending.erase p).has q = (s.pending.has q && decide (q ≠ p)))

/-- R21, R186 to R189 and R192: from a state that meets the invariant, a pended event stays pending
through every step but its removal by the environment, a reset, and an entry to Debug state in that
step for a cause of its type. -/
def Obligations.PendedEventLeavesOnlyByRule : Prop :=
  ∀ (p : Pendable) (s t : State), s.Inv → step s = .next t → s.pending.has p = true →
    t.pending.has p = false →
    (∃ rest, s.agenda = .dropPending p :: rest) ∨
    (∃ i b rest, s.agenda = .reset i b :: rest) ∨
    (EntersDebugState s t ∧ t.entryCause = some p.type)

/-! ## Several events of one instruction -/

/-- R179: the priorities of the synchronous debug events. -/
def Obligations.SynchronousPriorities : Prop :=
  Event.syncPriority .resetCatch = some 1 ∧
  Event.syncPriority (.exceptionCatch .two) = some 2 ∧
  Event.syncPriority .haltingStep = some 3 ∧
  Event.syncPriority (.exceptionCatch .six) = some 6 ∧
  (∀ b, Event.syncPriority (.breakpoint b) = some 10) ∧
  Event.syncPriority .haltInstruction = some 13 ∧
  Event.syncPriority .softwareAccess = some 40 ∧
  Event.syncPriority .watchpoint = some 46

/-- R178, R179, R181 and R192: of the candidates that compete one of the smallest priority number is
selected, and where it is the only one of that number, it is that one. An event of a set that competes
does so at the number R179 gives it, and a non-debug exception at its own: where the number of a
competing event of the set is smaller than that of every other competing one, that event is selected,
and where halting is allowed the instruction does what it does with that event alone. Left out: a set
with a breakpoint of the reserved type (`ReservedBreakpointRefused`), and a halt instruction that is
UNDEFINED, whose place is a free value (notes/assumptions/16.md). That a Vector Catch event competes
whatever the Exception model then answers is the model's choice (notes/assumptions/37.md). -/
def Obligations.SmallestPriorityNumberSelected : Prop :=
  (∀ (s : State) (cs : List Candidate),
    (cs ≠ [] → ∃ c ∈ cs, s.select cs = some c ∧ ∀ d ∈ cs, c.priority ≤ d.priority) ∧
    (∀ c ∈ cs, (∀ d ∈ cs, d ≠ c → c.priority < d.priority) → s.select cs = some c)) ∧
  (∀ (s : State) (gs : List Generated) (g : Generated) (n : Nat) (trap : Bool),
    gs.all Generated.wellFormed = true → gs.any s.reservedIn = false →
    (.event .haltInstruction ∈ gs → s.haltingAllowed = true ∧ s.hde = true) →
    g ∈ gs → (s.candidate g).isSome = true → g.priority = some n →
    (∀ h ∈ gs, h ≠ g → (s.candidate h).isSome = true → ∃ m, h.priority = some m ∧ n < m) →
    s.select (gs.filterMap s.candidate) = s.candidate g ∧
    (s.haltingAllowed = true → s.selectSynchronous gs trap = s.selectSynchronous [g] trap))

/-- R192: an instruction that generates one synchronous event does what that event does alone. R185:
with a trapping Vector Catch, an Exception Trapping Vector Catch exception follows at once the exception
the event becomes, if it becomes one, and goes to the Exception model in its turn (R101). That the
trapping is an input of the instruction is the model's own (notes/assumptions/17.md). -/
def Obligations.OneEventOfAnInstructionIsThatEvent : Prop :=
  ∀ (e : Event) (s : State), Generated.wellFormed (.event e) = true →
    s.selectSynchronous [.event e] false = generate e s ∧
    (∀ t, generate e s = .next t → t.handed ≠ s.handed →
      s.selectSynchronous [.event e] true = .next { t with
        handed  := if t.exceptionGenerated (.vectorCatch .exceptionTrapping) then
            t.handed ++ [.vectorCatch .exceptionTrapping]
          else t.handed
        outcome := some (if t.exceptionGenerated (.vectorCatch .exceptionTrapping) then
            .debugException
          else .ignored) }) ∧
    ((∀ t, generate e s = .next t → t.handed = s.handed) →
      s.selectSynchronous [.event e] true = generate e s)

/-- R184: a Breakpoint debug event and an Address Matching Vector Catch exception on one instruction,
where the breakpoint would halt: the PE enters Debug state for the breakpoint, or the Vector Catch
exception goes to the Exception model. Which of the two is a free value (notes/assumptions/14.md); that
a Vector Catch selected and then ignored still drops the breakpoint is the model's choice
(notes/assumptions/37.md). -/
def Obligations.BreakpointOrVectorCatchChosen : Prop :=
  ∀ (s : State) (gs : List Generated),
    (gs = [.event (.breakpoint .other), .event (.vectorCatch .addressMatching)] ∨
      gs = [.event (.vectorCatch .addressMatching), .event (.breakpoint .other)]) →
    s.hde = true → s.haltingAllowed = true → s.oslk = false → s.canReachPreciseState = true →
    ∃ t, s.selectSynchronous gs false = .next t ∧
      ((t.halted = true ∧ t.entryCause = some .breakpoint ∧ t.entryImprecise = false ∧
          t.handed = s.handed) ∨
        (t.halted = false ∧
          ((t.outcome = some .debugException ∧
              t.handed = s.handed ++ [.vectorCatch .addressMatching]) ∨
            (t.outcome = some .ignored ∧ t.handed = s.handed))))

/-- R182: where halting is prohibited, Halting Step and Reset Catch debug events are pended and do not
compete: the selection is that of the other events. -/
def Obligations.ProhibitedStepAndResetCatchPended : Prop :=
  ∀ (s t : State) (gs : List Generated) (trap : Bool), s.haltingAllowed = false →
    s.selectSynchronous gs trap = .next t →
    (.event .haltingStep ∈ gs → t.pending.has .haltingStep = true) ∧
    (.event .resetCatch ∈ gs → t.pending.has .resetCatch = true) ∧
    s.select (gs.filterMap s.candidate) =
      s.select ((gs.filter fun g =>
        g != .event .haltingStep && g != .event .resetCatch).filterMap s.candidate)

/-- R192: where halting is allowed, only the event selected is taken: nothing is pended that was not
pending; an entry (or a held entry) hands over nothing; and where an exception is handed over it is the
selected event's own, with no entry. With no event to select nothing is handed over, entered or held.
That a Software Step, Breakpoint Instruction or Vector Catch event which is selected drops the others
also where the Exception model then ignores it is the model's choice (notes/assumptions/37.md). -/
def Obligations.UnselectedEventsDropped : Prop :=
  ∀ (s t : State) (gs : List Generated), s.haltingAllowed = true →
    gs.all Generated.wellFormed = true → s.selectSynchronous gs false = .next t →
    (∀ p, t.pending.has p = true → s.pending.has p = true) ∧
    match s.select (gs.filterMap s.candidate) with
    | none => t.halted = s.halted ∧ t.held = s.held ∧ t.handed = s.handed
    | some c =>
      (∃ g ∈ gs, s.candidate g = some c) ∧
      match c.taking with
      | .enter e =>
        t.handed = s.handed ∧
        (s.canReachPreciseState = true →
          EntersDebugState s t ∧ t.entryCause = some e.type ∧ t.held = none) ∧
        (s.canReachPreciseState = false → t.halted = s.halted ∧ t.held = some e.type)
      | .exceptionModel e =>
        t.halted = s.halted ∧ t.held = s.held ∧
        t.handed = s.handed ++ (if s.exceptionGenerated e then e.exceptionKind.toList else [])
      | .undefined =>
        t.halted = s.halted ∧ t.held = s.held ∧ t.handed = s.handed ++ [.undefinedInstruction]
      | .nonDebug n =>
        t.halted = s.halted ∧ t.held = s.held ∧ t.handed = s.handed ++ [.nonDebug n]

/-! ## Changing conditions -/

/-- R51, R62 and R136: a row of the table does what its event does in the state wherever the state's
conditions select that row, whatever the columns the row leaves out (`X`), and everywhere for an
asynchronous event, whose conditions are not read before it is taken; for a synchronous event whose
conditions have changed since they selected the row, it is refused: the model's reading of "refused",
notes/assumptions/18.md. -/
def Obligations.RowUnderOtherConditionsRefused : Prop :=
  ∀ (i : Instr) (e : Event) (c : Conditions) (s : State),
    i.eventAndConditions = some (e, c) →
    (i.tableRowNumber = (rowOf e s.conditions).tableRowNumber ∨ e.asynchronous = true →
      exec i s = generate e s) ∧
    (i.tableRowNumber ≠ (rowOf e s.conditions).tableRowNumber → e.asynchronous = false →
      exec i s = .refused .conditionsChanged)

/-- R42 and R62: a step that changes an input of the outcome together with the evaluation of a
synchronous event is refused, and so is a step that changes one while a synchronous event is held; every
other change, of a register field (R14 to R18), a lock (R13), an input (R11, R12, R23) or the Execution
state, is made at once, and changes the one field it names and nothing else. That a run is refused by
the step that makes the change is the model's reading, notes/assumptions/18.md; that a change made
together with an event that is not refused is made before it is the model's choice,
notes/assumptions/36.md; the trapped write of the OS Lock, notes/assumptions/20.md. -/
def Obligations.CoincidentChangeRefused : Prop :=
  ∀ (c : Control) (s : State) (rest : List Move),
    (∀ e, s.agenda = .during c e :: rest → Move.wellFormed s.params (.during c e) = true →
      s.held = none →
      (e.asynchronous = false → (s.change c).outcomeInputs ≠ s.outcomeInputs →
        step s = .refused .conditionsChanged) ∧
      (e.asynchronous = true ∨ (s.change c).outcomeInputs = s.outcomeInputs →
        step s = generate e ((s.advance rest).change c))) ∧
    (s.held.isSome = true → c.bySoftware = false → (s.change c).outcomeInputs ≠ s.outcomeInputs →
      (s.agenda = .control c :: rest → Move.wellFormed s.params (.control c) = true →
        step s = .refused .conditionsChanged) ∧
      (∀ e, s.agenda = .during c e :: rest → Move.wellFormed s.params (.during c e) = true →
        e.asynchronous = true → step s = .refused .conditionsChanged)) ∧
    (s.agenda = .control c :: rest → Move.wellFormed s.params (.control c) = true →
      s.held = none ∨ (c.bySoftware = false ∧ (s.change c).outcomeInputs = s.outcomeInputs) →
      ∃ u, u = ({ s with agenda := rest, tick := s.tick + 1 } : State) ∧
        step s = .next (match c with
          | .hde _ v            => { u with hde := v }
          | .oslk less v        =>
            if less = true ∧ (s.tdosaEl3 = true ∨ s.tdosaHyp = true) then
              { u with handed := s.handed ++ [.osLockWriteTrap] }
            else { u with oslk := v }
          | .doubleLock v       => { u with osDoubleLockLocked := v }
          | .mde v              => { u with mde := v }
          | .mdbgen v           => { u with mdbgen := v }
          | .tdosaEl3 v         => { u with tdosaEl3 := v }
          | .tdosaHyp v         => { u with tdosaHyp := v }
          | .security x         => { u with security := x }
          | .execState x        => { u with execState := x }
          | .auth .nonSecure v  => { u with authNs := v }
          | .auth .secure v     => { u with authS := v }
          | .auth .realm v      => { u with authRl := v }
          | .auth .root v       => { u with authRt := v }
          | .precise v          => { u with canReachPreciseState := v }
          | .outstanding n      => { u with outstanding := n }))

/-- R16 and R17: `EDSCR.HDE` is written by software or the debugger whatever the OS Lock, with nothing
else changed; while a `TDOSA` control is set, a write of the OS Lock by less privileged software is
trapped instead of performed, and every other write of it is performed. That the trap is handed to
the Exception model is the model's choice, notes/assumptions/20.md. -/
def Obligations.HdeAndOsLockWrites : Prop :=
  (∀ (who : Agent) (v : Bool) (s : State) (rest : List Move),
    s.agenda = .control (.hde who v) :: rest → s.held = none →
    step s = .next { s with hde := v, agenda := rest, tick := s.tick + 1 }) ∧
  (∀ (less v : Bool) (s : State) (rest : List Move),
    s.agenda = .control (.oslk less v) :: rest → s.held = none →
    (less = true → s.tdosaEl3 = true ∨ s.tdosaHyp = true →
      step s = .next { s with
        handed := s.handed ++ [.osLockWriteTrap], agenda := rest, tick := s.tick + 1 }) ∧
    (less = false ∨ (s.tdosaEl3 = false ∧ s.tdosaHyp = false) →
      step s = .next { s with oslk := v, agenda := rest, tick := s.tick + 1 }))

/-! ## Imprecise entry -/

/-- R114: the PE ignores a write of `EDRCR.CBRRQ` in each of the three cases, and in no other; an
ignored write changes no state. -/
def Obligations.CbrrqWriteIgnoredInThreeCases : Prop :=
  (∀ (v : Bool) (s : State), s.cbrrqWriteIgnored = true → writeCbrrq v s = .next s) ∧
  ∀ s : State, s.cbrrqWriteIgnored = true ↔
    (s.authNs = false ∨
      (s.params.featRme = false ∧ s.authS = false ∧
        ((s.params.el3 = false ∧ s.params.onlySecure = true) ∨ s.params.el3 = true)) ∨
      (s.params.featRme = true ∧ s.authRt = false))

/-- R121: the debugger's write of `EDRCR.CBRRQ`. -/
def Obligations.CbrrqWriteRequests : Prop :=
  ∀ (v : Bool) (s : State) (rest : List Move), s.agenda = .writeCbrrq v :: rest →
    (v = false ∨ s.params.cbrrq = false ∨ s.cbrrqWriteIgnored = true →
      step s = .next { s with agenda := rest, tick := s.tick + 1 }) ∧
    (v = true → s.params.cbrrq = true → s.cbrrqWriteIgnored = false →
      (s.pending.externalDebugRequest = false →
        step s = .refused .cbrrqWithoutPendingRequest) ∧
      (s.pending.externalDebugRequest = true →
        step s = .next { s with
          cbrrqRequested := true, agenda := rest, tick := s.tick + 1 }))

/-- R116 and R119: an imprecise entry needs the feature, the request, the pending External Debug
Request and halting allowed, and nothing else: it is enabled whether or not a precise state can be
reached and whether or not an entry is held (R113, R120); it cancels the outstanding accesses, enters Debug
state, and leaves every register UNKNOWN. Where it is not enabled there is no such step: the model's
step of that name changes nothing (notes/assumptions/7.md). -/
def Obligations.ImpreciseEntryForcesDebugState : Prop :=
  ∀ (s : State) (rest : List Move), s.agenda = .impreciseEntry :: rest →
    (s.params.cbrrq = true → s.cbrrqRequested = true →
      s.pending.externalDebugRequest = true → s.haltingAllowed = true →
      step s = .next { s with
        halted             := true
        entryCause         := some .externalDebugRequest
        entryImprecise     := true
        pending            := { s.pending with externalDebugRequest := false }
        cbrrqRequested     := false
        held               := none
        outcome            := some .enterDebugState
        outstanding        := 0
        oslk               := Config.unknownControl .oslk (s.tick + 1)
        hde                := Config.unknownControl .hde (s.tick + 1)
        osDoubleLockLocked := Config.unknownControl .doubleLock (s.tick + 1)
        mde                := Config.unknownControl .mde (s.tick + 1)
        mdbgen             := Config.unknownControl .mdbgen (s.tick + 1)
        tdosaEl3           := Config.unknownControl .tdosaEl3 (s.tick + 1)
        tdosaHyp           := Config.unknownControl .tdosaHyp (s.tick + 1)
        itr                := Config.unknownItr (s.tick + 1)
        registers          :=
          { general := (List.range s.registers.general.length).map fun n =>
              Config.unknownGeneral n (s.tick + 1)
            pc      := Config.unknownPc (s.tick + 1)
            flags   := Config.unknownFlags (s.tick + 1) }
        agenda             := rest
        tick               := s.tick + 1 }) ∧
    (s.params.cbrrq = false ∨ s.cbrrqRequested = false ∨
      s.pending.externalDebugRequest = false ∨ s.haltingAllowed = false →
      step s = .next { s with agenda := rest, tick := s.tick + 1 })

/-- R118: after an imprecise entry a memory access instruction executed through the ITR is refused;
any other instruction, and a memory access after a precise entry, runs; what it leaves in the
registers is an input, the model's own choice (notes/assumptions/26.md). -/
def Obligations.ItrMemoryAccessRefusedAfterImpreciseEntry : Prop :=
  ∀ (k : ItrInstruction) (after : Registers) (s : State), s.halted = true → s.itr = some k →
    (k = .memoryAccess → s.entryImprecise = true →
      runItr after s = .refused .itrMemoryAccessAfterImpreciseEntry) ∧
    (k = .otherInstruction ∨ s.entryImprecise = false →
      runItr after s = .next { s with registers := after, itr := none })

/-- Example H2-1 (R111, R116, R121, R187): with the memory system not responding, the debugger pends
an External Debug Request, which cannot be taken; it writes 1 to `EDRCR.CBRRQ`; the PE then enters
Debug state imprecisely. The example has no step of taking here, since R188 does not enable it: that
the model's step of that name answers a next state with nothing changed is its own choice
(notes/assumptions/7.md). -/
def Obligations.DebuggerForcesEntry : Prop :=
  ∀ (s : State) (rest : List Move),
    s.agenda = .event .externalDebugRequest :: .take .externalDebugRequest ::
      .writeCbrrq true :: .impreciseEntry :: rest →
    s.held = none → s.haltingAllowed = true → s.canReachPreciseState = false →
    s.params.cbrrq = true → s.cbrrqWriteIgnored = false →
    ∃ s₁ s₂ s₃ t, step s = .next s₁ ∧ step s₁ = .next s₂ ∧ step s₂ = .next s₃ ∧
      step s₃ = .next t ∧
      s₁.pending.externalDebugRequest = true ∧ s₁.halted = false ∧
      s₂.pending.externalDebugRequest = true ∧ s₂.halted = false ∧
      s₃.cbrrqRequested = true ∧ s₃.halted = false ∧
      t.halted = true ∧ t.entryCause = some .externalDebugRequest ∧ t.entryImprecise = true ∧
      t.pending.externalDebugRequest = false ∧ t.cbrrqRequested = false ∧ t.outstanding = 0

/-! ## Reset -/

/-- R210: a reset that generates a Reset Catch debug event enters Debug state if halting is allowed in
the state after the reset has been processed, and else pends the event; a reset that generates none
leaves `init` (R211). Resets of a PE in Debug state are out of the model (R196). That a reset also
clears the model's own records is the model's choice, notes/assumptions/25.md. -/
def Obligations.ResetCatchTakenOrPended : Prop :=
  ∀ (i : Init) (b : Bool) (s : State) (rest : List Move), s.agenda = .reset i b :: rest →
    s.halted = false → i.wellFormed s.params = true →
    ∃ u, u = { State.ofInit s.params i rest with tick := s.tick + 1 } ∧
      (b = false → step s = .next u) ∧
      (b = true → u.haltingAllowed = true → i.canReachPreciseState = true →
        step s = .next { u with
          halted     := true
          entryCause := some .resetCatch
          pending    := { i.pending with resetCatch := false }
          outcome    := some .enterDebugState }) ∧
      (b = true → u.haltingAllowed = false →
        step s = .next { u with
          pending := { i.pending with resetCatch := true }, outcome := some .pended })

/-- R211: whatever `init` is, no request has been made and no entry is recorded at the start; the
reset state is the start state of one `init`, the model's own choice (notes/assumptions/1.md and
notes/assumptions/2.md). -/
def Obligations.StartStateHasNoRequest : Prop :=
  (∀ (p : Params) (i : Init) (a : List Move),
    (State.ofInit p i a).cbrrqRequested = false ∧ (State.ofInit p i a).entryCause = none ∧
      (State.ofInit p i a).entryImprecise = false ∧ (State.ofInit p i a).held = none) ∧
  ∃ p i, i.wellFormed p = true ∧ State.reset = State.ofInit p i []

/-! ## Reading instructions -/

/-- A step runs the decoded instruction: with a word first on the agenda and no entry held, the step
is `exec` of the instruction the word decodes to, on the state with the word taken off the agenda and
the step counted; an event runs the row that the table selects for it. That a word which decodes to
none is refused by name is the model's choice (notes/assumptions/29.md), and the agenda is its own
(notes/assumptions/28.md). -/
def Obligations.StepRunsTheDecodedInstruction : Prop :=
  ∀ (s : State) (rest : List Move), s.held = none →
    (∀ w i, s.agenda = .word w :: rest → decode w = .ok i →
      step s = exec i { s with agenda := rest, tick := s.tick + 1 }) ∧
    (∀ w why, s.agenda = .word w :: rest → decode w = .error why →
      step s = .refused (.undecoded why)) ∧
    (∀ e, s.agenda = .event e :: rest →
      step s = exec (rowOf e s.conditions) { s with agenda := rest, tick := s.tick + 1 })

/-- Placing an instruction: where the decoder reads an instruction from a word, the next step of the
state with the word placed runs that instruction, on the state as it was with no entry held and the step
counted; for a row of the table, in Non-debug state and with the row's own conditions set, each in the
field it is read from (notes/assumptions/4.md). -/
def Obligations.PlacedWordRuns : Prop :=
  ∀ (s : State) (nbits w : Nat) (i : Instr), decodeTableWord nbits w = some i →
    (i.eventAndConditions = none →
      step (s.withFetchWord nbits w) = exec i { s with held := none, tick := s.tick + 1 }) ∧
    (∀ e c, i.eventAndConditions = some (e, c) →
      ∃ u : State,
        u = { s with
          halted             := false
          params             :=
            { s.params with featDoubleLock := s.params.featDoubleLock || c.dlk }
          osDoubleLockLocked := c.dlk
          oslk               := c.oslk
          hde                := c.hde
          authNs             := if s.security = .nonSecure then c.auth else s.authNs
          authS              := if s.security = .secure then c.auth else s.authS
          authRl             := if s.security = .realm then c.auth else s.authRl
          authRt             := if s.security = .root then c.auth else s.authRt
          held               := none
          tick               := s.tick + 1 } ∧
        u.conditions = c ∧ step (s.withFetchWord nbits w) = exec i u)

/-- R51 and R52: decoding a written instruction gives it back, with every operand. The event's bits
of a Table H2-1 word are the model's own numbering (notes/assumptions/3.md). -/
def Obligations.DecodeEncodeRoundTrip : Prop :=
  ∀ i : Instr, decode (encode i) = .ok i

/-- R51 and R52: every word that is read as an instruction is that instruction's own word: no bit of
it is dropped (the event's bits are the model's own: notes/assumptions/3.md). -/
def Obligations.EncodeDecodeRoundTrip : Prop :=
  ∀ (w : Word) (i : Instr), decode w = .ok i → encode i = w

/-- Words written out from the encodings of 30_encoding.md R52, and condition vectors of Table H2-1
with the model's own event numbers (notes/assumptions/3.md), decode to their instructions. -/
def Obligations.SampleWordsDecode : Prop :=
  decode 0xD4400000#32 = .ok (.hltA64 0) ∧
  decode 0xD45FFFE0#32 = .ok (.hltA64 0xFFFF#16) ∧
  decode 0xE1012374#32 = .ok (.hltA32 0b1110#4 0x123#12 0x4#4) ∧
  decode 0x0000BAAA#32 = .ok (.hltT32 0x2A#6) ∧
  decode 0x00000009#32 = .ok (.bwHalt (.breakpoint .other)) ∧
  decode 0x0000007A#32 = .ok (.hltHde0 true) ∧
  decode 0x000000C3#32 = .ok (.ohNoauth .externalDebugRequest false true true) ∧
  decode 0x000000F0#32 = .error .reservedEventNumber ∧
  decode 0x00000100#32 = .error .noTableRow

/-! ## The machine -/

/-- The invariant of the machine (R11, R21, R22, R111, R113, R116, R195) is kept by every step, from
every state that meets it. Its clause about held entries is about the model's own record
(notes/assumptions/6.md). -/
def Obligations.EveryStepKeepsTheInvariant : Prop :=
  ∀ s t : State, s.Inv → step s = .next t → t.Inv

/-- The reset state, whose values are the model's own choice (notes/assumptions/1.md and
notes/assumptions/2.md), meets the invariant. -/
def Obligations.ResetMeetsTheInvariant : Prop := State.reset.Inv

/-- R196: no step leaves Debug state, and none enters it again: from a state that meets the invariant
(in which no entry is held in Debug state) the recorded entry stays. R196 does not speak of a reset:
that a reset in Debug state is skipped is the model's choice (notes/assumptions/25.md). -/
def Obligations.NoStepLeavesDebugState : Prop :=
  ∀ s t : State, s.Inv → step s = .next t → s.halted = true →
    t.halted = true ∧ t.entryCause = s.entryCause ∧ t.entryImprecise = s.entryImprecise

/-- R64 to R66 and R116: from a state that meets the invariant, no step other than a reset enters
Debug state unless halting is allowed. -/
def Obligations.NoEntryAgainstHaltingAllowed : Prop :=
  ∀ s t : State, s.Inv → step s = .next t → EntersDebugState s t →
    (∀ i b rest, s.agenda ≠ .reset i b :: rest) → s.haltingAllowed = true

/-- R194: every entry to Debug state is precise but `ImpreciseEntry`, which needs its guard. -/
def Obligations.OnlyForcedEntryIsImprecise : Prop :=
  ∀ s t : State, step s = .next t → EntersDebugState s t → t.entryImprecise = true →
    (∃ rest, s.agenda = .impreciseEntry :: rest) ∧
      s.params.cbrrq = true ∧ s.cbrrqRequested = true ∧
      s.pending.externalDebugRequest = true ∧ s.haltingAllowed = true

/-- R195: a precise entry writes nothing but what `EnterDebugState` writes: its cause leaves `Pending`
and no other type does, and the exceptions handed over, the controls, the locks, the authentication
inputs and the registers are as they were. (A change of another input in the same step, and a reset,
write what they write.) -/
def Obligations.PreciseEntryFrame : Prop :=
  ∀ s t : State, step s = .next t → EntersDebugState s t → t.entryImprecise = false →
    (∀ c e rest, s.agenda ≠ .during c e :: rest) →
    (∀ i b rest, s.agenda ≠ .reset i b :: rest) →
    t.security = s.security ∧ t.execState = s.execState ∧
    t.authNs = s.authNs ∧ t.authS = s.authS ∧ t.authRl = s.authRl ∧ t.authRt = s.authRt ∧
    t.osDoubleLockLocked = s.osDoubleLockLocked ∧ t.oslk = s.oslk ∧ t.hde = s.hde ∧
    t.mde = s.mde ∧ t.mdbgen = s.mdbgen ∧ t.tdosaEl3 = s.tdosaEl3 ∧ t.tdosaHyp = s.tdosaHyp ∧
    t.itr = s.itr ∧ t.registers = s.registers ∧ t.outstanding = s.outstanding ∧
    t.canReachPreciseState = s.canReachPreciseState ∧ t.params = s.params ∧
    t.handed = s.handed ∧ t.cbrrqRequested = false ∧ t.held = none ∧
    (∃ c, t.entryCause = some c ∧ t.pending = s.pending.eraseType c)

/-- The parameters of the implementation are fixed: no step changes them. -/
def Obligations.NoStepChangesTheParameters : Prop :=
  ∀ s t : State, step s = .next t → t.params = s.params
end

