-- ==== Sys2Proof/Laws/Decode.lean ====
section
/-! SUPPORT. The small lemmas of reading and writing a word. -/

namespace Sys2Proof

@[simp] theorem Conditions.ofBits_bits (c : Conditions) : Conditions.ofBits c.bits = c := by
  obtain ⟨a, d, o, h⟩ := c
  cases a <;> cases d <;> cases o <;> cases h <;> rfl

@[simp] theorem Conditions.bits_ofBits (v : BitVec 4) : (Conditions.ofBits v).bits = v := by
  revert v
  decide

@[simp] theorem Event.ofNumber_number (e : Event) : Event.ofNumber e.number = some e := by
  cases e with
  | exceptionCatch p => cases p <;> rfl
  | breakpoint t => cases t <;> rfl
  | vectorCatch f => cases f <;> rfl
  | _ => rfl

theorem Event.number_of_ofNumber {n : BitVec 4} {e : Event} (h : Event.ofNumber n = some e) :
    e.number = n := by
  have key : ∀ m : BitVec 4, (Event.ofNumber m).all (fun x => x.number == m) = true := by decide
  simpa [h] using key n

/-- A row is the one its event and conditions select. -/
theorem rowOf_of_eventAndConditions {i : Instr} {e : Event} {c : Conditions}
    (h : i.eventAndConditions = some (e, c)) : rowOf e c = i := by
  cases i with
  | otherSw x a d o h' => cases h; cases x <;> rfl
  | bwDlk x a o h' => cases h; cases x <;> rfl
  | bwOslk x a h' => cases h; cases x <;> rfl
  | bwNoauth x h' => cases h; cases x <;> rfl
  | bwHde0 x => cases h; cases x <;> rfl
  | bwHalt x => cases h; cases x <;> rfl
  | ohNoauth x d o h' => cases h; cases x <;> rfl
  | ohDlk x o h' => cases h; cases x <;> rfl
  | ohHalt x o h' => cases h; cases x <;> rfl
  | _ => cases h <;> rfl

/-- The row selected is for the event and the conditions that select it. -/
@[simp] theorem eventAndConditions_rowOf (e : Event) (c : Conditions) :
    (rowOf e c).eventAndConditions = some (e, c) := by
  obtain ⟨a, d, o, h⟩ := c
  cases e <;> cases a <;> cases d <;> cases o <;> cases h <;> rfl

/-! ## Which vectors a row of the table takes: one lemma per mask and match of the table -/

@[simp] theorem Conditions.selects_bwDlk (c : Conditions) :
    c.selects 0b0100#4 0b0100#4 = c.dlk := by
  obtain ⟨_ | _, _ | _, _ | _, _ | _⟩ := c <;> rfl

@[simp] theorem Conditions.selects_bwOslk (c : Conditions) :
    c.selects 0b0110#4 0b0010#4 = (!c.dlk && c.oslk) := by
  obtain ⟨_ | _, _ | _, _ | _, _ | _⟩ := c <;> rfl

@[simp] theorem Conditions.selects_bwNoauth (c : Conditions) :
    c.selects 0b1110#4 0b0000#4 = (!c.auth && !c.dlk && !c.oslk) := by
  obtain ⟨_ | _, _ | _, _ | _, _ | _⟩ := c <;> rfl

@[simp] theorem Conditions.selects_bwHde0 (c : Conditions) :
    c.selects 0b1111#4 0b1000#4 = (c.auth && !c.dlk && !c.oslk && !c.hde) := by
  obtain ⟨_ | _, _ | _, _ | _, _ | _⟩ := c <;> rfl

@[simp] theorem Conditions.selects_bwHalt (c : Conditions) :
    c.selects 0b1111#4 0b1001#4 = (c.auth && !c.dlk && !c.oslk && c.hde) := by
  obtain ⟨_ | _, _ | _, _ | _, _ | _⟩ := c <;> rfl

@[simp] theorem Conditions.selects_noauth (c : Conditions) :
    c.selects 0b1000#4 0b0000#4 = !c.auth := by
  obtain ⟨_ | _, _ | _, _ | _, _ | _⟩ := c <;> rfl

@[simp] theorem Conditions.selects_dlk (c : Conditions) :
    c.selects 0b1100#4 0b1100#4 = (c.auth && c.dlk) := by
  obtain ⟨_ | _, _ | _, _ | _, _ | _⟩ := c <;> rfl

@[simp] theorem Conditions.selects_halt (c : Conditions) :
    c.selects 0b1100#4 0b1000#4 = (c.auth && !c.dlk) := by
  obtain ⟨_ | _, _ | _, _ | _, _ | _⟩ := c <;> rfl

@[simp] theorem Conditions.selects_hltHde0 (c : Conditions) :
    c.selects 0b1101#4 0b1000#4 = (c.auth && !c.dlk && !c.hde) := by
  obtain ⟨_ | _, _ | _, _ | _, _ | _⟩ := c <;> rfl

@[simp] theorem Conditions.selects_hltHalt (c : Conditions) :
    c.selects 0b1101#4 0b1001#4 = (c.auth && !c.dlk && c.hde) := by
  obtain ⟨_ | _, _ | _, _ | _, _ | _⟩ := c <;> rfl

@[simp] theorem Conditions.selects_saOslk (c : Conditions) :
    c.selects 0b1110#4 0b1010#4 = (c.auth && !c.dlk && c.oslk) := by
  obtain ⟨_ | _, _ | _, _ | _, _ | _⟩ := c <;> rfl

@[simp] theorem Conditions.selects_saHalt (c : Conditions) :
    c.selects 0b1110#4 0b1000#4 = (c.auth && !c.dlk && !c.oslk) := by
  obtain ⟨_ | _, _ | _, _ | _, _ | _⟩ := c <;> rfl

/-! ## Bits and fields -/

/-- A field of a word is `v` when each of its bits is `v`'s. -/
theorem extractLsb'_eq_of_bits {n s l : Nat} {w : BitVec n} {v : BitVec l}
    (h : ∀ k, k < l → w.getLsbD (s + k) = v.getLsbD k) : w.extractLsb' s l = v := by
  apply BitVec.eq_of_getLsbD_eq
  intro k hk
  rw [BitVec.getLsbD_extractLsb', h k hk]
  simp [hk]

/-- A field of a word is not `v` when one of its bits is not `v`'s. -/
theorem extractLsb'_ne_of_bit {n s l : Nat} {w : BitVec n} {v : BitVec l} (k : Nat) (hk : k < l)
    (h : w.getLsbD (s + k) ≠ v.getLsbD k) : w.extractLsb' s l ≠ v := by
  intro he
  rw [← he, BitVec.getLsbD_extractLsb'] at h
  simp [hk] at h

/-- The bits of a word one of whose fields is known. -/
theorem getLsbD_of_extractLsb' {n s l : Nat} {w : BitVec n} {v : BitVec l}
    (h : w.extractLsb' s l = v) (k : Nat) (hk : k < l) : w.getLsbD (s + k) = v.getLsbD k := by
  rw [← h, BitVec.getLsbD_extractLsb']
  simp [hk]

theorem encodeEvent_bit (e : Event) (c : Conditions) (k : Nat) :
    (encodeEvent e c).getLsbD k = (decide (k < 32) &&
      if k < 4 then c.bits.getLsbD k else if k - 4 < 4 then e.number.getLsbD (k - 4)
      else (0#24).getLsbD (k - 4 - 4)) := by
  simp only [encodeEvent, BitVec.getLsbD_setWidth, BitVec.getLsbD_append]

theorem encode_hltA64_bit (imm16 : BitVec 16) (k : Nat) :
    (encode (.hltA64 imm16)).getLsbD k = (decide (k < 32) &&
      if k < 5 then (0#5).getLsbD k else if k - 5 < 16 then imm16.getLsbD (k - 5)
      else (0b11010100010#11).getLsbD (k - 5 - 16)) := by
  simp only [encode, BitVec.getLsbD_setWidth, BitVec.getLsbD_append]

theorem encode_hltA32_bit (cond : BitVec 4) (imm12 : BitVec 12) (imm4 : BitVec 4) (k : Nat) :
    (encode (.hltA32 cond imm12 imm4)).getLsbD k = (decide (k < 32) &&
      if k < 4 then imm4.getLsbD k else if k - 4 < 4 then (0b0111#4).getLsbD (k - 4)
      else if k - 4 - 4 < 12 then imm12.getLsbD (k - 4 - 4)
      else if k - 4 - 4 - 12 < 8 then (0b00010000#8).getLsbD (k - 4 - 4 - 12)
      else cond.getLsbD (k - 4 - 4 - 12 - 8)) := by
  simp only [encode, BitVec.getLsbD_setWidth, BitVec.getLsbD_append]

theorem encode_hltT32_bit (imm6 : BitVec 6) (k : Nat) :
    (encode (.hltT32 imm6)).getLsbD k = (decide (k < 32) &&
      if k < 6 then imm6.getLsbD k else (0b1011101010#26).getLsbD (k - 6)) := by
  simp only [encode, BitVec.getLsbD_setWidth, BitVec.getLsbD_append]

/-- The word of a row of the table is its event's under its conditions. -/
theorem encode_of_eventAndConditions {i : Instr} {e : Event} {c : Conditions}
    (h : i.eventAndConditions = some (e, c)) : encode i = encodeEvent e c := by
  cases i <;> first | (cases h; rfl) | cases h

/-- The three parts of an event's word. -/
theorem encodeEvent_parts (e : Event) (c : Conditions) :
    (encodeEvent e c).extractLsb' 8 24 = 0#24 ∧
      (encodeEvent e c).extractLsb' 4 4 = e.number ∧
      (encodeEvent e c).extractLsb' 0 4 = c.bits := by
  unfold encodeEvent
  generalize e.number = n
  generalize c.bits = v
  revert n v
  decide

theorem decode_encodeEvent (e : Event) (c : Conditions) :
    decode (encodeEvent e c) = .ok (rowOf e c) := by
  obtain ⟨h₁, h₂, h₃⟩ := encodeEvent_parts e c
  simp [decode, h₁, h₂, h₃]

end Sys2Proof
end

