-- ==== Sys2Proof/Laws/State.lean ====
section
/-! SUPPORT. The fields of the state after each shared update: one lemma per field per update, so
that no later proof unfolds a record update. -/

namespace Sys2Proof.Machine

section
variable (s : State)

@[simp] theorem ignoreEvent_halted : s.ignoreEvent.halted = s.halted := rfl
@[simp] theorem ignoreEvent_security : s.ignoreEvent.security = s.security := rfl
@[simp] theorem ignoreEvent_execState : s.ignoreEvent.execState = s.execState := rfl
@[simp] theorem ignoreEvent_authNs : s.ignoreEvent.authNs = s.authNs := rfl
@[simp] theorem ignoreEvent_authS : s.ignoreEvent.authS = s.authS := rfl
@[simp] theorem ignoreEvent_authRl : s.ignoreEvent.authRl = s.authRl := rfl
@[simp] theorem ignoreEvent_authRt : s.ignoreEvent.authRt = s.authRt := rfl
@[simp] theorem ignoreEvent_osDoubleLockLocked : s.ignoreEvent.osDoubleLockLocked =
    s.osDoubleLockLocked := rfl
@[simp] theorem ignoreEvent_oslk : s.ignoreEvent.oslk = s.oslk := rfl
@[simp] theorem ignoreEvent_hde : s.ignoreEvent.hde = s.hde := rfl
@[simp] theorem ignoreEvent_mde : s.ignoreEvent.mde = s.mde := rfl
@[simp] theorem ignoreEvent_mdbgen : s.ignoreEvent.mdbgen = s.mdbgen := rfl
@[simp] theorem ignoreEvent_tdosaEl3 : s.ignoreEvent.tdosaEl3 = s.tdosaEl3 := rfl
@[simp] theorem ignoreEvent_tdosaHyp : s.ignoreEvent.tdosaHyp = s.tdosaHyp := rfl
@[simp] theorem ignoreEvent_cbrrqRequested : s.ignoreEvent.cbrrqRequested = s.cbrrqRequested := rfl
@[simp] theorem ignoreEvent_itr : s.ignoreEvent.itr = s.itr := rfl
@[simp] theorem ignoreEvent_pending : s.ignoreEvent.pending = s.pending := rfl
@[simp] theorem ignoreEvent_entryCause : s.ignoreEvent.entryCause = s.entryCause := rfl
@[simp] theorem ignoreEvent_entryImprecise : s.ignoreEvent.entryImprecise = s.entryImprecise := rfl
@[simp] theorem ignoreEvent_canReachPreciseState : s.ignoreEvent.canReachPreciseState =
    s.canReachPreciseState := rfl
@[simp] theorem ignoreEvent_outstanding : s.ignoreEvent.outstanding = s.outstanding := rfl
@[simp] theorem ignoreEvent_registers : s.ignoreEvent.registers = s.registers := rfl
@[simp] theorem ignoreEvent_params : s.ignoreEvent.params = s.params := rfl
@[simp] theorem ignoreEvent_held : s.ignoreEvent.held = s.held := rfl
@[simp] theorem ignoreEvent_handed : s.ignoreEvent.handed = s.handed := rfl
@[simp] theorem ignoreEvent_outcome : s.ignoreEvent.outcome = some .ignored := rfl
@[simp] theorem ignoreEvent_tick : s.ignoreEvent.tick = s.tick := rfl
@[simp] theorem ignoreEvent_agenda : s.ignoreEvent.agenda = s.agenda := rfl

end

section
variable (s : State) (p : Pendable)

@[simp] theorem pendEvent_halted : (s.pendEvent p).halted = s.halted := rfl
@[simp] theorem pendEvent_security : (s.pendEvent p).security = s.security := rfl
@[simp] theorem pendEvent_execState : (s.pendEvent p).execState = s.execState := rfl
@[simp] theorem pendEvent_authNs : (s.pendEvent p).authNs = s.authNs := rfl
@[simp] theorem pendEvent_authS : (s.pendEvent p).authS = s.authS := rfl
@[simp] theorem pendEvent_authRl : (s.pendEvent p).authRl = s.authRl := rfl
@[simp] theorem pendEvent_authRt : (s.pendEvent p).authRt = s.authRt := rfl
@[simp] theorem pendEvent_osDoubleLockLocked : (s.pendEvent p).osDoubleLockLocked =
    s.osDoubleLockLocked := rfl
@[simp] theorem pendEvent_oslk : (s.pendEvent p).oslk = s.oslk := rfl
@[simp] theorem pendEvent_hde : (s.pendEvent p).hde = s.hde := rfl
@[simp] theorem pendEvent_mde : (s.pendEvent p).mde = s.mde := rfl
@[simp] theorem pendEvent_mdbgen : (s.pendEvent p).mdbgen = s.mdbgen := rfl
@[simp] theorem pendEvent_tdosaEl3 : (s.pendEvent p).tdosaEl3 = s.tdosaEl3 := rfl
@[simp] theorem pendEvent_tdosaHyp : (s.pendEvent p).tdosaHyp = s.tdosaHyp := rfl
@[simp] theorem pendEvent_cbrrqRequested : (s.pendEvent p).cbrrqRequested = s.cbrrqRequested := rfl
@[simp] theorem pendEvent_itr : (s.pendEvent p).itr = s.itr := rfl
@[simp] theorem pendEvent_pending : (s.pendEvent p).pending = s.pending.insert p := rfl
@[simp] theorem pendEvent_entryCause : (s.pendEvent p).entryCause = s.entryCause := rfl
@[simp] theorem pendEvent_entryImprecise : (s.pendEvent p).entryImprecise = s.entryImprecise := rfl
@[simp] theorem pendEvent_canReachPreciseState : (s.pendEvent p).canReachPreciseState =
    s.canReachPreciseState := rfl
@[simp] theorem pendEvent_outstanding : (s.pendEvent p).outstanding = s.outstanding := rfl
@[simp] theorem pendEvent_registers : (s.pendEvent p).registers = s.registers := rfl
@[simp] theorem pendEvent_params : (s.pendEvent p).params = s.params := rfl
@[simp] theorem pendEvent_held : (s.pendEvent p).held = s.held := rfl
@[simp] theorem pendEvent_handed : (s.pendEvent p).handed = s.handed := rfl
@[simp] theorem pendEvent_outcome : (s.pendEvent p).outcome = some .pended := rfl
@[simp] theorem pendEvent_tick : (s.pendEvent p).tick = s.tick := rfl
@[simp] theorem pendEvent_agenda : (s.pendEvent p).agenda = s.agenda := rfl

end

section
variable (s : State) (c : EventType) (b : Bool)

@[simp] theorem enterDebugState_halted : (s.enterDebugState c b).halted = true := rfl
@[simp] theorem enterDebugState_security : (s.enterDebugState c b).security = s.security := rfl
@[simp] theorem enterDebugState_execState : (s.enterDebugState c b).execState = s.execState := rfl
@[simp] theorem enterDebugState_authNs : (s.enterDebugState c b).authNs = s.authNs := rfl
@[simp] theorem enterDebugState_authS : (s.enterDebugState c b).authS = s.authS := rfl
@[simp] theorem enterDebugState_authRl : (s.enterDebugState c b).authRl = s.authRl := rfl
@[simp] theorem enterDebugState_authRt : (s.enterDebugState c b).authRt = s.authRt := rfl
@[simp] theorem enterDebugState_osDoubleLockLocked : (s.enterDebugState c b).osDoubleLockLocked =
    s.osDoubleLockLocked := rfl
@[simp] theorem enterDebugState_oslk : (s.enterDebugState c b).oslk = s.oslk := rfl
@[simp] theorem enterDebugState_hde : (s.enterDebugState c b).hde = s.hde := rfl
@[simp] theorem enterDebugState_mde : (s.enterDebugState c b).mde = s.mde := rfl
@[simp] theorem enterDebugState_mdbgen : (s.enterDebugState c b).mdbgen = s.mdbgen := rfl
@[simp] theorem enterDebugState_tdosaEl3 : (s.enterDebugState c b).tdosaEl3 = s.tdosaEl3 := rfl
@[simp] theorem enterDebugState_tdosaHyp : (s.enterDebugState c b).tdosaHyp = s.tdosaHyp := rfl
@[simp] theorem enterDebugState_cbrrqRequested : (s.enterDebugState c b).cbrrqRequested =
    false := rfl
@[simp] theorem enterDebugState_itr : (s.enterDebugState c b).itr = s.itr := rfl
@[simp] theorem enterDebugState_pending : (s.enterDebugState c b).pending =
    s.pending.eraseType c := rfl
@[simp] theorem enterDebugState_entryCause : (s.enterDebugState c b).entryCause = some c := rfl
@[simp] theorem enterDebugState_entryImprecise : (s.enterDebugState c b).entryImprecise = !b := rfl
@[simp] theorem enterDebugState_canReachPreciseState : (s.enterDebugState c b).canReachPreciseState =
    s.canReachPreciseState := rfl
@[simp] theorem enterDebugState_outstanding : (s.enterDebugState c b).outstanding =
    s.outstanding := rfl
@[simp] theorem enterDebugState_registers : (s.enterDebugState c b).registers = s.registers := rfl
@[simp] theorem enterDebugState_params : (s.enterDebugState c b).params = s.params := rfl
@[simp] theorem enterDebugState_held : (s.enterDebugState c b).held = none := rfl
@[simp] theorem enterDebugState_handed : (s.enterDebugState c b).handed = s.handed := rfl
@[simp] theorem enterDebugState_outcome : (s.enterDebugState c b).outcome =
    some .enterDebugState := rfl
@[simp] theorem enterDebugState_tick : (s.enterDebugState c b).tick = s.tick := rfl
@[simp] theorem enterDebugState_agenda : (s.enterDebugState c b).agenda = s.agenda := rfl

end

section
variable (s : State) (e : Event)

@[simp] theorem handToExceptionModel_halted : (s.handToExceptionModel e).halted = s.halted := rfl
@[simp] theorem handToExceptionModel_security : (s.handToExceptionModel e).security =
    s.security := rfl
@[simp] theorem handToExceptionModel_execState : (s.handToExceptionModel e).execState =
    s.execState := rfl
@[simp] theorem handToExceptionModel_authNs : (s.handToExceptionModel e).authNs = s.authNs := rfl
@[simp] theorem handToExceptionModel_authS : (s.handToExceptionModel e).authS = s.authS := rfl
@[simp] theorem handToExceptionModel_authRl : (s.handToExceptionModel e).authRl = s.authRl := rfl
@[simp] theorem handToExceptionModel_authRt : (s.handToExceptionModel e).authRt = s.authRt := rfl
@[simp] theorem handToExceptionModel_osDoubleLockLocked : (s.handToExceptionModel e).osDoubleLockLocked =
    s.osDoubleLockLocked := rfl
@[simp] theorem handToExceptionModel_oslk : (s.handToExceptionModel e).oslk = s.oslk := rfl
@[simp] theorem handToExceptionModel_hde : (s.handToExceptionModel e).hde = s.hde := rfl
@[simp] theorem handToExceptionModel_mde : (s.handToExceptionModel e).mde = s.mde := rfl
@[simp] theorem handToExceptionModel_mdbgen : (s.handToExceptionModel e).mdbgen = s.mdbgen := rfl
@[simp] theorem handToExceptionModel_tdosaEl3 : (s.handToExceptionModel e).tdosaEl3 =
    s.tdosaEl3 := rfl
@[simp] theorem handToExceptionModel_tdosaHyp : (s.handToExceptionModel e).tdosaHyp =
    s.tdosaHyp := rfl
@[simp] theorem handToExceptionModel_cbrrqRequested : (s.handToExceptionModel e).cbrrqRequested =
    s.cbrrqRequested := rfl
@[simp] theorem handToExceptionModel_itr : (s.handToExceptionModel e).itr = s.itr := rfl
@[simp] theorem handToExceptionModel_pending : (s.handToExceptionModel e).pending = s.pending := rfl
@[simp] theorem handToExceptionModel_entryCause : (s.handToExceptionModel e).entryCause =
    s.entryCause := rfl
@[simp] theorem handToExceptionModel_entryImprecise : (s.handToExceptionModel e).entryImprecise =
    s.entryImprecise := rfl
@[simp] theorem handToExceptionModel_canReachPreciseState : (s.handToExceptionModel e).canReachPreciseState =
    s.canReachPreciseState := rfl
@[simp] theorem handToExceptionModel_outstanding : (s.handToExceptionModel e).outstanding =
    s.outstanding := rfl
@[simp] theorem handToExceptionModel_registers : (s.handToExceptionModel e).registers =
    s.registers := rfl
@[simp] theorem handToExceptionModel_params : (s.handToExceptionModel e).params = s.params := rfl
@[simp] theorem handToExceptionModel_held : (s.handToExceptionModel e).held = s.held := rfl
@[simp] theorem handToExceptionModel_handed : (s.handToExceptionModel e).handed =
    if s.exceptionGenerated e then s.handed ++ e.exceptionKind.toList else s.handed := rfl
@[simp] theorem handToExceptionModel_outcome : (s.handToExceptionModel e).outcome =
    some (if s.exceptionGenerated e then .debugException else .ignored) := rfl
@[simp] theorem handToExceptionModel_tick : (s.handToExceptionModel e).tick = s.tick := rfl
@[simp] theorem handToExceptionModel_agenda : (s.handToExceptionModel e).agenda = s.agenda := rfl

end

section
variable (s : State)

@[simp] theorem raiseUndefined_halted : s.raiseUndefined.halted = s.halted := rfl
@[simp] theorem raiseUndefined_security : s.raiseUndefined.security = s.security := rfl
@[simp] theorem raiseUndefined_execState : s.raiseUndefined.execState = s.execState := rfl
@[simp] theorem raiseUndefined_authNs : s.raiseUndefined.authNs = s.authNs := rfl
@[simp] theorem raiseUndefined_authS : s.raiseUndefined.authS = s.authS := rfl
@[simp] theorem raiseUndefined_authRl : s.raiseUndefined.authRl = s.authRl := rfl
@[simp] theorem raiseUndefined_authRt : s.raiseUndefined.authRt = s.authRt := rfl
@[simp] theorem raiseUndefined_osDoubleLockLocked : s.raiseUndefined.osDoubleLockLocked =
    s.osDoubleLockLocked := rfl
@[simp] theorem raiseUndefined_oslk : s.raiseUndefined.oslk = s.oslk := rfl
@[simp] theorem raiseUndefined_hde : s.raiseUndefined.hde = s.hde := rfl
@[simp] theorem raiseUndefined_mde : s.raiseUndefined.mde = s.mde := rfl
@[simp] theorem raiseUndefined_mdbgen : s.raiseUndefined.mdbgen = s.mdbgen := rfl
@[simp] theorem raiseUndefined_tdosaEl3 : s.raiseUndefined.tdosaEl3 = s.tdosaEl3 := rfl
@[simp] theorem raiseUndefined_tdosaHyp : s.raiseUndefined.tdosaHyp = s.tdosaHyp := rfl
@[simp] theorem raiseUndefined_cbrrqRequested : s.raiseUndefined.cbrrqRequested =
    s.cbrrqRequested := rfl
@[simp] theorem raiseUndefined_itr : s.raiseUndefined.itr = s.itr := rfl
@[simp] theorem raiseUndefined_pending : s.raiseUndefined.pending = s.pending := rfl
@[simp] theorem raiseUndefined_entryCause : s.raiseUndefined.entryCause = s.entryCause := rfl
@[simp] theorem raiseUndefined_entryImprecise : s.raiseUndefined.entryImprecise =
    s.entryImprecise := rfl
@[simp] theorem raiseUndefined_canReachPreciseState : s.raiseUndefined.canReachPreciseState =
    s.canReachPreciseState := rfl
@[simp] theorem raiseUndefined_outstanding : s.raiseUndefined.outstanding = s.outstanding := rfl
@[simp] theorem raiseUndefined_registers : s.raiseUndefined.registers = s.registers := rfl
@[simp] theorem raiseUndefined_params : s.raiseUndefined.params = s.params := rfl
@[simp] theorem raiseUndefined_held : s.raiseUndefined.held = s.held := rfl
@[simp] theorem raiseUndefined_handed : s.raiseUndefined.handed =
    s.handed ++ [.undefinedInstruction] := rfl
@[simp] theorem raiseUndefined_outcome : s.raiseUndefined.outcome = some .treatedAsUndefined := rfl
@[simp] theorem raiseUndefined_tick : s.raiseUndefined.tick = s.tick := rfl
@[simp] theorem raiseUndefined_agenda : s.raiseUndefined.agenda = s.agenda := rfl

end

section
variable (s : State)

@[simp] theorem exceptionCatchNotHalting_halted : s.exceptionCatchNotHalting.halted =
    s.halted := rfl
@[simp] theorem exceptionCatchNotHalting_security : s.exceptionCatchNotHalting.security =
    s.security := rfl
@[simp] theorem exceptionCatchNotHalting_execState : s.exceptionCatchNotHalting.execState =
    s.execState := rfl
@[simp] theorem exceptionCatchNotHalting_authNs : s.exceptionCatchNotHalting.authNs =
    s.authNs := rfl
@[simp] theorem exceptionCatchNotHalting_authS : s.exceptionCatchNotHalting.authS = s.authS := rfl
@[simp] theorem exceptionCatchNotHalting_authRl : s.exceptionCatchNotHalting.authRl =
    s.authRl := rfl
@[simp] theorem exceptionCatchNotHalting_authRt : s.exceptionCatchNotHalting.authRt =
    s.authRt := rfl
@[simp] theorem exceptionCatchNotHalting_osDoubleLockLocked : s.exceptionCatchNotHalting.osDoubleLockLocked =
    s.osDoubleLockLocked := rfl
@[simp] theorem exceptionCatchNotHalting_oslk : s.exceptionCatchNotHalting.oslk = s.oslk := rfl
@[simp] theorem exceptionCatchNotHalting_hde : s.exceptionCatchNotHalting.hde = s.hde := rfl
@[simp] theorem exceptionCatchNotHalting_mde : s.exceptionCatchNotHalting.mde = s.mde := rfl
@[simp] theorem exceptionCatchNotHalting_mdbgen : s.exceptionCatchNotHalting.mdbgen =
    s.mdbgen := rfl
@[simp] theorem exceptionCatchNotHalting_tdosaEl3 : s.exceptionCatchNotHalting.tdosaEl3 =
    s.tdosaEl3 := rfl
@[simp] theorem exceptionCatchNotHalting_tdosaHyp : s.exceptionCatchNotHalting.tdosaHyp =
    s.tdosaHyp := rfl
@[simp] theorem exceptionCatchNotHalting_cbrrqRequested : s.exceptionCatchNotHalting.cbrrqRequested =
    s.cbrrqRequested := rfl
@[simp] theorem exceptionCatchNotHalting_itr : s.exceptionCatchNotHalting.itr = s.itr := rfl
@[simp] theorem exceptionCatchNotHalting_pending : s.exceptionCatchNotHalting.pending =
    if s.params.featDebugv8p8 && s.exceptionCatchPends then s.pending.insert .exceptionCatch else s.pending := rfl
@[simp] theorem exceptionCatchNotHalting_entryCause : s.exceptionCatchNotHalting.entryCause =
    s.entryCause := rfl
@[simp] theorem exceptionCatchNotHalting_entryImprecise : s.exceptionCatchNotHalting.entryImprecise =
    s.entryImprecise := rfl
@[simp] theorem exceptionCatchNotHalting_canReachPreciseState : s.exceptionCatchNotHalting.canReachPreciseState =
    s.canReachPreciseState := rfl
@[simp] theorem exceptionCatchNotHalting_outstanding : s.exceptionCatchNotHalting.outstanding =
    s.outstanding := rfl
@[simp] theorem exceptionCatchNotHalting_registers : s.exceptionCatchNotHalting.registers =
    s.registers := rfl
@[simp] theorem exceptionCatchNotHalting_params : s.exceptionCatchNotHalting.params =
    s.params := rfl
@[simp] theorem exceptionCatchNotHalting_held : s.exceptionCatchNotHalting.held = s.held := rfl
@[simp] theorem exceptionCatchNotHalting_handed : s.exceptionCatchNotHalting.handed =
    s.handed := rfl
@[simp] theorem exceptionCatchNotHalting_outcome : s.exceptionCatchNotHalting.outcome =
    some (if s.params.featDebugv8p8 && s.exceptionCatchPends then .pended else .ignored) := rfl
@[simp] theorem exceptionCatchNotHalting_tick : s.exceptionCatchNotHalting.tick = s.tick := rfl
@[simp] theorem exceptionCatchNotHalting_agenda : s.exceptionCatchNotHalting.agenda =
    s.agenda := rfl

end

section
variable (s : State)

@[simp] theorem cancelOutstandingMemoryAccesses_halted : s.cancelOutstandingMemoryAccesses.halted =
    s.halted := rfl
@[simp] theorem cancelOutstandingMemoryAccesses_security : s.cancelOutstandingMemoryAccesses.security =
    s.security := rfl
@[simp] theorem cancelOutstandingMemoryAccesses_execState : s.cancelOutstandingMemoryAccesses.execState =
    s.execState := rfl
@[simp] theorem cancelOutstandingMemoryAccesses_authNs : s.cancelOutstandingMemoryAccesses.authNs =
    s.authNs := rfl
@[simp] theorem cancelOutstandingMemoryAccesses_authS : s.cancelOutstandingMemoryAccesses.authS =
    s.authS := rfl
@[simp] theorem cancelOutstandingMemoryAccesses_authRl : s.cancelOutstandingMemoryAccesses.authRl =
    s.authRl := rfl
@[simp] theorem cancelOutstandingMemoryAccesses_authRt : s.cancelOutstandingMemoryAccesses.authRt =
    s.authRt := rfl
@[simp] theorem cancelOutstandingMemoryAccesses_osDoubleLockLocked : s.cancelOutstandingMemoryAccesses.osDoubleLockLocked =
    s.osDoubleLockLocked := rfl
@[simp] theorem cancelOutstandingMemoryAccesses_oslk : s.cancelOutstandingMemoryAccesses.oslk =
    s.oslk := rfl
@[simp] theorem cancelOutstandingMemoryAccesses_hde : s.cancelOutstandingMemoryAccesses.hde =
    s.hde := rfl
@[simp] theorem cancelOutstandingMemoryAccesses_mde : s.cancelOutstandingMemoryAccesses.mde =
    s.mde := rfl
@[simp] theorem cancelOutstandingMemoryAccesses_mdbgen : s.cancelOutstandingMemoryAccesses.mdbgen =
    s.mdbgen := rfl
@[simp] theorem cancelOutstandingMemoryAccesses_tdosaEl3 : s.cancelOutstandingMemoryAccesses.tdosaEl3 =
    s.tdosaEl3 := rfl
@[simp] theorem cancelOutstandingMemoryAccesses_tdosaHyp : s.cancelOutstandingMemoryAccesses.tdosaHyp =
    s.tdosaHyp := rfl
@[simp] theorem cancelOutstandingMemoryAccesses_cbrrqRequested : s.cancelOutstandingMemoryAccesses.cbrrqRequested =
    s.cbrrqRequested := rfl
@[simp] theorem cancelOutstandingMemoryAccesses_itr : s.cancelOutstandingMemoryAccesses.itr =
    s.itr := rfl
@[simp] theorem cancelOutstandingMemoryAccesses_pending : s.cancelOutstandingMemoryAccesses.pending =
    s.pending := rfl
@[simp] theorem cancelOutstandingMemoryAccesses_entryCause : s.cancelOutstandingMemoryAccesses.entryCause =
    s.entryCause := rfl
@[simp] theorem cancelOutstandingMemoryAccesses_entryImprecise : s.cancelOutstandingMemoryAccesses.entryImprecise =
    s.entryImprecise := rfl
@[simp] theorem cancelOutstandingMemoryAccesses_canReachPreciseState : s.cancelOutstandingMemoryAccesses.canReachPreciseState =
    s.canReachPreciseState := rfl
@[simp] theorem cancelOutstandingMemoryAccesses_outstanding : s.cancelOutstandingMemoryAccesses.outstanding =
    0 := rfl
@[simp] theorem cancelOutstandingMemoryAccesses_registers : s.cancelOutstandingMemoryAccesses.registers =
    s.registers := rfl
@[simp] theorem cancelOutstandingMemoryAccesses_params : s.cancelOutstandingMemoryAccesses.params =
    s.params := rfl
@[simp] theorem cancelOutstandingMemoryAccesses_held : s.cancelOutstandingMemoryAccesses.held =
    s.held := rfl
@[simp] theorem cancelOutstandingMemoryAccesses_handed : s.cancelOutstandingMemoryAccesses.handed =
    s.handed := rfl
@[simp] theorem cancelOutstandingMemoryAccesses_outcome : s.cancelOutstandingMemoryAccesses.outcome =
    s.outcome := rfl
@[simp] theorem cancelOutstandingMemoryAccesses_tick : s.cancelOutstandingMemoryAccesses.tick =
    s.tick := rfl
@[simp] theorem cancelOutstandingMemoryAccesses_agenda : s.cancelOutstandingMemoryAccesses.agenda =
    s.agenda := rfl

end

section
variable (s : State)

@[simp] theorem unknownRegisters_halted : s.unknownRegisters.halted = s.halted := rfl
@[simp] theorem unknownRegisters_security : s.unknownRegisters.security = s.security := rfl
@[simp] theorem unknownRegisters_execState : s.unknownRegisters.execState = s.execState := rfl
@[simp] theorem unknownRegisters_authNs : s.unknownRegisters.authNs = s.authNs := rfl
@[simp] theorem unknownRegisters_authS : s.unknownRegisters.authS = s.authS := rfl
@[simp] theorem unknownRegisters_authRl : s.unknownRegisters.authRl = s.authRl := rfl
@[simp] theorem unknownRegisters_authRt : s.unknownRegisters.authRt = s.authRt := rfl
@[simp] theorem unknownRegisters_osDoubleLockLocked : s.unknownRegisters.osDoubleLockLocked =
    Config.unknownControl .doubleLock s.tick := rfl
@[simp] theorem unknownRegisters_oslk : s.unknownRegisters.oslk =
    Config.unknownControl .oslk s.tick := rfl
@[simp] theorem unknownRegisters_hde : s.unknownRegisters.hde =
    Config.unknownControl .hde s.tick := rfl
@[simp] theorem unknownRegisters_mde : s.unknownRegisters.mde =
    Config.unknownControl .mde s.tick := rfl
@[simp] theorem unknownRegisters_mdbgen : s.unknownRegisters.mdbgen =
    Config.unknownControl .mdbgen s.tick := rfl
@[simp] theorem unknownRegisters_tdosaEl3 : s.unknownRegisters.tdosaEl3 =
    Config.unknownControl .tdosaEl3 s.tick := rfl
@[simp] theorem unknownRegisters_tdosaHyp : s.unknownRegisters.tdosaHyp =
    Config.unknownControl .tdosaHyp s.tick := rfl
@[simp] theorem unknownRegisters_cbrrqRequested : s.unknownRegisters.cbrrqRequested =
    s.cbrrqRequested := rfl
@[simp] theorem unknownRegisters_itr : s.unknownRegisters.itr = Config.unknownItr s.tick := rfl
@[simp] theorem unknownRegisters_pending : s.unknownRegisters.pending = s.pending := rfl
@[simp] theorem unknownRegisters_entryCause : s.unknownRegisters.entryCause = s.entryCause := rfl
@[simp] theorem unknownRegisters_entryImprecise : s.unknownRegisters.entryImprecise =
    s.entryImprecise := rfl
@[simp] theorem unknownRegisters_canReachPreciseState : s.unknownRegisters.canReachPreciseState =
    s.canReachPreciseState := rfl
@[simp] theorem unknownRegisters_outstanding : s.unknownRegisters.outstanding = s.outstanding := rfl
@[simp] theorem unknownRegisters_registers : s.unknownRegisters.registers =
    { general := (List.range s.registers.general.length).map fun n => Config.unknownGeneral n s.tick, pc := Config.unknownPc s.tick, flags := Config.unknownFlags s.tick } := rfl
@[simp] theorem unknownRegisters_params : s.unknownRegisters.params = s.params := rfl
@[simp] theorem unknownRegisters_held : s.unknownRegisters.held = s.held := rfl
@[simp] theorem unknownRegisters_handed : s.unknownRegisters.handed = s.handed := rfl
@[simp] theorem unknownRegisters_outcome : s.unknownRegisters.outcome = s.outcome := rfl
@[simp] theorem unknownRegisters_tick : s.unknownRegisters.tick = s.tick := rfl
@[simp] theorem unknownRegisters_agenda : s.unknownRegisters.agenda = s.agenda := rfl

end

section
variable (s : State) (gs : List Generated)

@[simp] theorem pendAll_halted : (s.pendAll gs).halted = s.halted := rfl
@[simp] theorem pendAll_security : (s.pendAll gs).security = s.security := rfl
@[simp] theorem pendAll_execState : (s.pendAll gs).execState = s.execState := rfl
@[simp] theorem pendAll_authNs : (s.pendAll gs).authNs = s.authNs := rfl
@[simp] theorem pendAll_authS : (s.pendAll gs).authS = s.authS := rfl
@[simp] theorem pendAll_authRl : (s.pendAll gs).authRl = s.authRl := rfl
@[simp] theorem pendAll_authRt : (s.pendAll gs).authRt = s.authRt := rfl
@[simp] theorem pendAll_osDoubleLockLocked : (s.pendAll gs).osDoubleLockLocked =
    s.osDoubleLockLocked := rfl
@[simp] theorem pendAll_oslk : (s.pendAll gs).oslk = s.oslk := rfl
@[simp] theorem pendAll_hde : (s.pendAll gs).hde = s.hde := rfl
@[simp] theorem pendAll_mde : (s.pendAll gs).mde = s.mde := rfl
@[simp] theorem pendAll_mdbgen : (s.pendAll gs).mdbgen = s.mdbgen := rfl
@[simp] theorem pendAll_tdosaEl3 : (s.pendAll gs).tdosaEl3 = s.tdosaEl3 := rfl
@[simp] theorem pendAll_tdosaHyp : (s.pendAll gs).tdosaHyp = s.tdosaHyp := rfl
@[simp] theorem pendAll_cbrrqRequested : (s.pendAll gs).cbrrqRequested = s.cbrrqRequested := rfl
@[simp] theorem pendAll_itr : (s.pendAll gs).itr = s.itr := rfl
@[simp] theorem pendAll_pending : (s.pendAll gs).pending =
    (gs.filterMap s.pendedBy).foldl Pending.insert s.pending := rfl
@[simp] theorem pendAll_entryCause : (s.pendAll gs).entryCause = s.entryCause := rfl
@[simp] theorem pendAll_entryImprecise : (s.pendAll gs).entryImprecise = s.entryImprecise := rfl
@[simp] theorem pendAll_canReachPreciseState : (s.pendAll gs).canReachPreciseState =
    s.canReachPreciseState := rfl
@[simp] theorem pendAll_outstanding : (s.pendAll gs).outstanding = s.outstanding := rfl
@[simp] theorem pendAll_registers : (s.pendAll gs).registers = s.registers := rfl
@[simp] theorem pendAll_params : (s.pendAll gs).params = s.params := rfl
@[simp] theorem pendAll_held : (s.pendAll gs).held = s.held := rfl
@[simp] theorem pendAll_handed : (s.pendAll gs).handed = s.handed := rfl
@[simp] theorem pendAll_outcome : (s.pendAll gs).outcome =
    some (if gs.any fun g => (s.pendedBy g).isSome then .pended else .ignored) := rfl
@[simp] theorem pendAll_tick : (s.pendAll gs).tick = s.tick := rfl
@[simp] theorem pendAll_agenda : (s.pendAll gs).agenda = s.agenda := rfl

end

section
variable (s : State)

@[simp] theorem tickOn_halted : s.tickOn.halted = s.halted := rfl
@[simp] theorem tickOn_security : s.tickOn.security = s.security := rfl
@[simp] theorem tickOn_execState : s.tickOn.execState = s.execState := rfl
@[simp] theorem tickOn_authNs : s.tickOn.authNs = s.authNs := rfl
@[simp] theorem tickOn_authS : s.tickOn.authS = s.authS := rfl
@[simp] theorem tickOn_authRl : s.tickOn.authRl = s.authRl := rfl
@[simp] theorem tickOn_authRt : s.tickOn.authRt = s.authRt := rfl
@[simp] theorem tickOn_osDoubleLockLocked : s.tickOn.osDoubleLockLocked =
    s.osDoubleLockLocked := rfl
@[simp] theorem tickOn_oslk : s.tickOn.oslk = s.oslk := rfl
@[simp] theorem tickOn_hde : s.tickOn.hde = s.hde := rfl
@[simp] theorem tickOn_mde : s.tickOn.mde = s.mde := rfl
@[simp] theorem tickOn_mdbgen : s.tickOn.mdbgen = s.mdbgen := rfl
@[simp] theorem tickOn_tdosaEl3 : s.tickOn.tdosaEl3 = s.tdosaEl3 := rfl
@[simp] theorem tickOn_tdosaHyp : s.tickOn.tdosaHyp = s.tdosaHyp := rfl
@[simp] theorem tickOn_cbrrqRequested : s.tickOn.cbrrqRequested = s.cbrrqRequested := rfl
@[simp] theorem tickOn_itr : s.tickOn.itr = s.itr := rfl
@[simp] theorem tickOn_pending : s.tickOn.pending = s.pending := rfl
@[simp] theorem tickOn_entryCause : s.tickOn.entryCause = s.entryCause := rfl
@[simp] theorem tickOn_entryImprecise : s.tickOn.entryImprecise = s.entryImprecise := rfl
@[simp] theorem tickOn_canReachPreciseState : s.tickOn.canReachPreciseState =
    s.canReachPreciseState := rfl
@[simp] theorem tickOn_outstanding : s.tickOn.outstanding = s.outstanding := rfl
@[simp] theorem tickOn_registers : s.tickOn.registers = s.registers := rfl
@[simp] theorem tickOn_params : s.tickOn.params = s.params := rfl
@[simp] theorem tickOn_held : s.tickOn.held = s.held := rfl
@[simp] theorem tickOn_handed : s.tickOn.handed = s.handed := rfl
@[simp] theorem tickOn_outcome : s.tickOn.outcome = s.outcome := rfl
@[simp] theorem tickOn_tick : s.tickOn.tick = s.tick + 1 := rfl
@[simp] theorem tickOn_agenda : s.tickOn.agenda = s.agenda := rfl

end

section
variable (s : State) (r : List Move)

@[simp] theorem advance_halted : (s.advance r).halted = s.halted := rfl
@[simp] theorem advance_security : (s.advance r).security = s.security := rfl
@[simp] theorem advance_execState : (s.advance r).execState = s.execState := rfl
@[simp] theorem advance_authNs : (s.advance r).authNs = s.authNs := rfl
@[simp] theorem advance_authS : (s.advance r).authS = s.authS := rfl
@[simp] theorem advance_authRl : (s.advance r).authRl = s.authRl := rfl
@[simp] theorem advance_authRt : (s.advance r).authRt = s.authRt := rfl
@[simp] theorem advance_osDoubleLockLocked : (s.advance r).osDoubleLockLocked =
    s.osDoubleLockLocked := rfl
@[simp] theorem advance_oslk : (s.advance r).oslk = s.oslk := rfl
@[simp] theorem advance_hde : (s.advance r).hde = s.hde := rfl
@[simp] theorem advance_mde : (s.advance r).mde = s.mde := rfl
@[simp] theorem advance_mdbgen : (s.advance r).mdbgen = s.mdbgen := rfl
@[simp] theorem advance_tdosaEl3 : (s.advance r).tdosaEl3 = s.tdosaEl3 := rfl
@[simp] theorem advance_tdosaHyp : (s.advance r).tdosaHyp = s.tdosaHyp := rfl
@[simp] theorem advance_cbrrqRequested : (s.advance r).cbrrqRequested = s.cbrrqRequested := rfl
@[simp] theorem advance_itr : (s.advance r).itr = s.itr := rfl
@[simp] theorem advance_pending : (s.advance r).pending = s.pending := rfl
@[simp] theorem advance_entryCause : (s.advance r).entryCause = s.entryCause := rfl
@[simp] theorem advance_entryImprecise : (s.advance r).entryImprecise = s.entryImprecise := rfl
@[simp] theorem advance_canReachPreciseState : (s.advance r).canReachPreciseState =
    s.canReachPreciseState := rfl
@[simp] theorem advance_outstanding : (s.advance r).outstanding = s.outstanding := rfl
@[simp] theorem advance_registers : (s.advance r).registers = s.registers := rfl
@[simp] theorem advance_params : (s.advance r).params = s.params := rfl
@[simp] theorem advance_held : (s.advance r).held = s.held := rfl
@[simp] theorem advance_handed : (s.advance r).handed = s.handed := rfl
@[simp] theorem advance_outcome : (s.advance r).outcome = s.outcome := rfl
@[simp] theorem advance_tick : (s.advance r).tick = s.tick + 1 := rfl
@[simp] theorem advance_agenda : (s.advance r).agenda = r := rfl

end

end Sys2Proof.Machine
end

