-- ==== Sys2Proof/Laws/Ops.lean ====
section
/-! SUPPORT. What the shared operations can do: pending, halting allowed, entering, the conditions of
a row. -/

namespace Sys2Proof

/-! ## The set of pended events -/

@[simp] theorem Pending.has_insert_self (s : Pending) (p : Pendable) : (s.insert p).has p = true := by
  cases p <;> rfl

@[simp] theorem Pending.has_erase_self (s : Pending) (p : Pendable) : (s.erase p).has p = false := by
  cases p <;> rfl

theorem Pending.has_insert_of_ne {p q : Pendable} (s : Pending) (h : q ≠ p) :
    (s.insert p).has q = s.has q := by
  cases p <;> cases q <;> first | exact absurd rfl h | rfl

theorem Pending.has_erase_of_ne {p q : Pendable} (s : Pending) (h : q ≠ p) :
    (s.erase p).has q = s.has q := by
  cases p <;> cases q <;> first | exact absurd rfl h | rfl

theorem Pending.has_insert (s : Pending) (p q : Pendable) :
    (s.insert p).has q = (s.has q || decide (q = p)) := by
  by_cases h : q = p
  · subst h; simp
  · rw [Pending.has_insert_of_ne s h]; simp [h]

theorem Pending.has_erase (s : Pending) (p q : Pendable) :
    (s.erase p).has q = (s.has q && decide (q ≠ p)) := by
  by_cases h : q = p
  · subst h; simp
  · rw [Pending.has_erase_of_ne s h]; simp [h]

/-- Two sets with the same members are the same data. -/
theorem Pending.eq_of_has {s t : Pending} (h : ∀ p, s.has p = t.has p) : s = t := by
  obtain ⟨a, b, c, d, e⟩ := s
  obtain ⟨a', b', c', d', e'⟩ := t
  have h₁ := h .exceptionCatch
  have h₂ := h .haltingStep
  have h₃ := h .externalDebugRequest
  have h₄ := h .resetCatch
  have h₅ := h .osUnlockCatch
  simp only [Pending.has] at h₁ h₂ h₃ h₄ h₅
  subst h₁ h₂ h₃ h₄ h₅
  rfl

@[simp] theorem Pendable.type_pendable (p : Pendable) : p.type.pendable = some p := by
  cases p <;> rfl

@[simp] theorem Pending.eraseType_type (s : Pending) (p : Pendable) :
    s.eraseType p.type = s.erase p := by
  simp [Pending.eraseType]

/-- Erasing a cause removes at most that cause's own entry. -/
theorem Pending.eraseType_cases (s : Pending) (t : EventType) :
    (t.pendable = none ∧ s.eraseType t = s) ∨
    (∃ p, t.pendable = some p ∧ s.eraseType t = s.erase p) := by
  unfold Pending.eraseType
  cases t.pendable with
  | none => exact .inl ⟨rfl, rfl⟩
  | some p => exact .inr ⟨p, rfl, rfl⟩

/-- Erasing adds nothing. -/
theorem Pending.has_of_has_eraseType {s : Pending} {t : EventType} {p : Pendable}
    (h : (s.eraseType t).has p = true) : s.has p = true := by
  rcases s.eraseType_cases t with ⟨-, he⟩ | ⟨q, -, he⟩
  · rwa [he] at h
  · rw [he, Pending.has_erase] at h
    simp only [Bool.and_eq_true] at h
    exact h.1

@[simp] theorem OtherHalting.event_pendable (e : OtherHalting) :
    e.event.type.pendable = some e.pendable := by
  cases e <;> rfl

namespace Machine

/-! ## Halting allowed -/

/-- `HaltingAllowed()` as one conjunction. -/
theorem haltingAllowed_eq (s : State) :
    s.haltingAllowed = (!s.halted && (!s.doubleLockStatus && s.authenticationAllows)) := by
  unfold State.haltingAllowed
  cases s.halted <;> cases s.doubleLockStatus <;> simp

theorem not_halted_of_haltingAllowed {s : State} (h : s.haltingAllowed = true) :
    s.halted = false := by
  rw [haltingAllowed_eq] at h
  simp only [Bool.and_eq_true, Bool.not_eq_true'] at h
  exact h.1

/-- Halting is allowed exactly in Non-debug state where the Authentication condition of the table
holds and DLK does not. -/
theorem haltingAllowed_eq_conditions (s : State) :
    s.haltingAllowed = (!s.halted && s.conditions.auth && !s.conditions.dlk) := by
  rw [haltingAllowed_eq]
  cases h₁ : s.halted <;> cases h₂ : s.doubleLockStatus <;> cases h₃ : s.authenticationAllows <;>
    simp [State.conditions, h₂, h₃]

/-- The conditions of a state at a row of the table are the row's. -/
theorem conditions_of_atRow {s : State} {a d o h : Bool} (hr : s.AtRow a d o h) :
    s.conditions = ⟨a, d, o, h⟩ := by
  obtain ⟨-, h₂, h₃, h₄, h₅⟩ := hr
  simp [State.conditions, h₂, h₃, h₄, h₅]

/-- A state in Non-debug state is at the row of its own conditions. -/
theorem atRow_self {s : State} (h : s.halted = false) :
    s.AtRow s.authenticationAllows s.doubleLockStatus s.oslk s.hde :=
  ⟨h, rfl, rfl, rfl, rfl⟩

/-! ## Running a row -/

theorem underConditions_of_selects {s : State} {m p : BitVec 4}
    (h : s.conditions.selects m p = true) (r : Host.Outcome State Fault Refusal) :
    s.underConditions m p r = r := by
  simp [State.underConditions, h]

theorem underConditions_of_not_selects {s : State} {m p : BitVec 4}
    (h : s.conditions.selects m p = false) (r : Host.Outcome State Fault Refusal) :
    s.underConditions m p r = .refused .conditionsChanged := by
  simp [State.underConditions, h]

/-- A row that answers a next state was selected, and the next state is its result's. -/
theorem underConditions_next {s t : State} {m p : BitVec 4}
    {r : Host.Outcome State Fault Refusal} (h : s.underConditions m p r = .next t) :
    s.conditions.selects m p = true ∧ r = .next t := by
  unfold State.underConditions at h
  split at h
  · exact ⟨‹_›, h⟩
  · cases h

@[simp] theorem unlessHalted_nonDebug {s : State} (h : s.halted = false)
    (n d : Host.Outcome State Fault Refusal) : s.unlessHalted n d = n := by
  simp [State.unlessHalted, h]

@[simp] theorem unlessHalted_debug {s : State} (h : s.halted = true)
    (n d : Host.Outcome State Fault Refusal) : s.unlessHalted n d = d := by
  simp [State.unlessHalted, h]

/-- The two things a row that Debug state turns into another can do. -/
theorem unlessHalted_cases (s : State) (n d : Host.Outcome State Fault Refusal) :
    (s.halted = false ∧ s.unlessHalted n d = n) ∨ (s.halted = true ∧ s.unlessHalted n d = d) := by
  unfold State.unlessHalted
  cases s.halted <;> simp

/-- The two things a row of the group "Other Halting" can do. -/
theorem otherHalting_cases (e : OtherHalting) (m p : BitVec 4)
    (r : Host.Outcome State Fault Refusal) (s : State) :
    (e.event.asynchronous = true ∧ otherHalting e m p r s = .next (s.pendEvent e.pendable)) ∨
    ((e = .haltingStep ∨ e = .resetCatch) ∧ otherHalting e m p r s = s.underConditions m p r) := by
  cases e
  · exact .inr ⟨.inl rfl, rfl⟩
  · exact .inl ⟨rfl, rfl⟩
  · exact .inr ⟨.inr rfl, rfl⟩
  · exact .inl ⟨rfl, rfl⟩

/-- The two things `enterOrHold` can do. -/
theorem enterOrHold_cases (s : State) (c : EventType) :
    (s.canReachPreciseState = true ∧ s.enterOrHold c = s.enterDebugState c true) ∨
    (s.canReachPreciseState = false ∧
      s.enterOrHold c = { s with held := some c, outcome := some .enterDebugState }) := by
  unfold State.enterOrHold
  cases h : s.canReachPreciseState
  · exact .inr ⟨rfl, by simp⟩
  · exact .inl ⟨rfl, by simp⟩

theorem enterOrHold_precise {s : State} (h : s.canReachPreciseState = true) (c : EventType) :
    s.enterOrHold c = s.enterDebugState c true := by
  simp [State.enterOrHold, h]

theorem enterOrHold_held {s : State} (h : s.canReachPreciseState = false) (c : EventType) :
    s.enterOrHold c = { s with held := some c, outcome := some .enterDebugState } := by
  simp [State.enterOrHold, h]

/-- What `handToExceptionModel` does, by the Exception model's answer. -/
theorem handToExceptionModel_cases (s : State) (e : Event) :
    (s.exceptionGenerated e = true ∧
      s.handToExceptionModel e =
        { s with handed := s.handed ++ e.exceptionKind.toList, outcome := some .debugException }) ∨
    (s.exceptionGenerated e = false ∧ s.handToExceptionModel e = s.ignoreEvent) := by
  unfold State.handToExceptionModel State.ignoreEvent
  cases h : s.exceptionGenerated e
  · exact .inr ⟨rfl, by simp⟩
  · exact .inl ⟨rfl, by simp⟩

/-- What `exceptionCatchNotHalting` does, by the parameter and the oracle. -/
theorem exceptionCatchNotHalting_cases (s : State) :
    (s.params.featDebugv8p8 = true ∧ s.exceptionCatchPends = true ∧
      s.exceptionCatchNotHalting = s.pendEvent .exceptionCatch) ∨
    ((s.params.featDebugv8p8 = false ∨ s.exceptionCatchPends = false) ∧
      s.exceptionCatchNotHalting = s.ignoreEvent) := by
  unfold State.exceptionCatchNotHalting State.pendEvent State.ignoreEvent
  cases h₁ : s.params.featDebugv8p8 <;> cases h₂ : s.exceptionCatchPends <;> simp

/-- The two things a halt instruction can do (41_halting_debug_events.md R82). -/
theorem haltInstruction_cases (s : State) :
    (s.haltingAllowed = true ∧ s.hde = true ∧
      s.haltInstruction = s.enterOrHold .haltInstruction) ∨
    ((s.haltingAllowed = false ∨ s.hde = false) ∧ s.haltInstruction = s.raiseUndefined) := by
  unfold State.haltInstruction
  cases h₁ : s.haltingAllowed <;> cases h₂ : s.hde <;> simp

end Machine

end Sys2Proof
end

