-- ==== Sys2Proof/Laws/Exec.lean ====
section
/-! SUPPORT. What running a row of the opcode table can do. -/

namespace Sys2Proof.Machine

/-- The five effects a row of the table can have on a state; the entry comes with the entry
condition of its cause. -/
inductive RowEffect (s : State) : State → Prop where
  | ignored : RowEffect s s.ignoreEvent
  | pended (p : Pendable) (h : p = .exceptionCatch → s.params.featDebugv8p8 = true) :
      RowEffect s (s.pendEvent p)
  | handed (e : Event) (k : ExceptionKind) (hk : e.exceptionKind = some k) :
      RowEffect s (s.handToExceptionModel e)
  | undefined : RowEffect s s.raiseUndefined
  | entered (c : EventType) (hc : c.canHalt = true) (h : s.entryConditionOf c = true) :
      RowEffect s (s.enterOrHold c)

/-- A halt instruction has one of the five effects. -/
theorem haltInstruction_effect (s : State) : RowEffect s s.haltInstruction := by
  rcases haltInstruction_cases s with ⟨h₁, h₂, he⟩ | ⟨-, he⟩ <;> rw [he]
  · exact .entered _ rfl (by simp [State.entryConditionOf, h₁, h₂])
  · exact .undefined

/-- A row that Authentication TRUE and DLK FALSE select, in Non-debug state, is one for which halting
is allowed. -/
theorem haltingAllowed_of_conditions {s : State} (hn : s.halted = false)
    (ha : s.conditions.auth = true) (hd : s.conditions.dlk = false) : s.haltingAllowed = true := by
  rw [haltingAllowed_eq_conditions, hn, ha, hd]
  rfl

/-- A row that halts the PE has one of the five effects if what it does in Debug state has. -/
theorem unlessHalted_effect {s t u : State} {c : EventType} (hc : c.canHalt = true)
    (h : s.unlessHalted (.next (s.enterOrHold c)) (.next u) = .next t)
    (hn : s.halted = false → s.entryConditionOf c = true) (hu : RowEffect s u) : RowEffect s t := by
  rcases unlessHalted_cases s (.next (s.enterOrHold c)) (.next u) with ⟨hs, he⟩ | ⟨-, he⟩ <;>
    cases he.symm.trans h
  · exact .entered c hc (hn hs)
  · exact hu

/-- "Might be pended" is one of the five effects. -/
theorem exceptionCatchNotHalting_effect (s : State) : RowEffect s s.exceptionCatchNotHalting := by
  rcases exceptionCatchNotHalting_cases s with ⟨hf, -, he⟩ | ⟨-, he⟩ <;> rw [he]
  · exact .pended _ fun _ => hf
  · exact .ignored

/-- A breakpoint or watchpoint that the Exception model handles. -/
theorem breakOrWatch_handed_effect (s : State) (e : BreakOrWatch) :
    RowEffect s (s.handToExceptionModel e.event) := by
  cases e with
  | breakpoint b => exact .handed _ .breakpoint rfl
  | watchpoint => exact .handed _ .watchpoint rfl

/-- An event of the group "Other Halting" that is pended. -/
theorem otherHalting_pended_effect (s : State) (e : OtherHalting) :
    RowEffect s (s.pendEvent e.pendable) :=
  .pended _ (by cases e <;> intro hp <;> cases hp)

/-- A row of the group "Other Halting" has one of the five effects if its result has, where its
conditions are read at all. -/
theorem otherHalting_effect {e : OtherHalting} {m p : BitVec 4}
    {r : Host.Outcome State Fault Refusal} {s t : State} (h : otherHalting e m p r s = .next t)
    (hr : (e = .haltingStep ∨ e = .resetCatch) → s.conditions.selects m p = true → r = .next t →
      RowEffect s t) : RowEffect s t := by
  rcases otherHalting_cases e m p r s with ⟨-, he⟩ | ⟨hs, he⟩
  · cases he.symm.trans h
    exact otherHalting_pended_effect s e
  · obtain ⟨hc, hn⟩ := underConditions_next (he.symm.trans h)
    exact hr hs hc hn

/-- Every next state that `exec` answers is one of the five effects. -/
theorem exec_next_effect {i : Instr} {s t : State} (h : exec i s = .next t) : RowEffect s t := by
  cases i with
  | otherSw e a d o h' =>
    cases h
    cases e with
    | softwareStep => exact .handed _ .softwareStep rfl
    | breakpointInstruction => exact .handed _ .breakpointInstruction rfl
    | vectorCatch f => exact .handed _ (.vectorCatch f) rfl
  | bwDlk e a o h' => obtain ⟨-, h⟩ := underConditions_next h; cases h; exact .ignored
  | bwOslk e a h' => obtain ⟨-, h⟩ := underConditions_next h; cases h; exact .ignored
  | bwNoauth e h' =>
    obtain ⟨-, h⟩ := underConditions_next h
    cases h
    exact breakOrWatch_handed_effect s e
  | bwHde0 e =>
    obtain ⟨-, h⟩ := underConditions_next h
    cases h
    exact breakOrWatch_handed_effect s e
  | bwHalt e =>
    obtain ⟨hc, h⟩ := underConditions_next h
    simp only [Conditions.selects_bwHalt, Bool.and_eq_true, Bool.not_eq_true'] at hc
    have key (hn : s.halted = false) : s.haltOnBreakpointOrWatchpoint = true := by
      have := haltingAllowed_of_conditions hn (by simp_all) (by simp_all)
      simp_all [State.haltOnBreakpointOrWatchpoint, State.conditions]
    cases e with
    | breakpoint b =>
      cases b with
      | addressMismatch =>
        rcases unlessHalted_cases s (enterOnBreakOrWatch (.breakpoint .addressMismatch) s)
          (.next (s.handToExceptionModel (.breakpoint .addressMismatch))) with
          ⟨-, he⟩ | ⟨-, he⟩ <;> cases he.symm.trans h
        exact .handed _ .breakpoint rfl
      | other => exact unlessHalted_effect rfl h key (.handed _ .breakpoint rfl)
    | watchpoint => exact unlessHalted_effect rfl h key (.handed _ .watchpoint rfl)
  | hltNoauth d o h' => obtain ⟨-, h⟩ := underConditions_next h; cases h; exact .undefined
  | hltDlk o h' => obtain ⟨-, h⟩ := underConditions_next h; cases h; exact .undefined
  | hltHde0 o => obtain ⟨-, h⟩ := underConditions_next h; cases h; exact .undefined
  | hltHalt o =>
    obtain ⟨hc, h⟩ := underConditions_next h
    simp only [Conditions.selects_hltHalt, Bool.and_eq_true, Bool.not_eq_true'] at hc
    refine unlessHalted_effect rfl h (fun hn => ?_) .undefined
    have := haltingAllowed_of_conditions hn (by simp_all) (by simp_all)
    simp_all [State.entryConditionOf, State.conditions]
  | ecNoauth p d o h' =>
    obtain ⟨-, h⟩ := underConditions_next h
    cases h
    exact exceptionCatchNotHalting_effect s
  | ecDlk p o h' =>
    obtain ⟨-, h⟩ := underConditions_next h
    rcases unlessHalted_cases s (.next s.ignoreEvent) (.next s.exceptionCatchNotHalting) with
      ⟨-, he⟩ | ⟨-, he⟩ <;> cases he.symm.trans h
    · exact .ignored
    · exact exceptionCatchNotHalting_effect s
  | ecHalt p o h' =>
    obtain ⟨hc, h⟩ := underConditions_next h
    simp only [Conditions.selects_halt, Bool.and_eq_true, Bool.not_eq_true'] at hc
    exact unlessHalted_effect rfl h (fun hn => haltingAllowed_of_conditions hn hc.1 hc.2)
      (exceptionCatchNotHalting_effect s)
  | saNoauth d o h' => obtain ⟨-, h⟩ := underConditions_next h; cases h; exact .ignored
  | saDlk o h' => obtain ⟨-, h⟩ := underConditions_next h; cases h; exact .ignored
  | saOslk h' => obtain ⟨-, h⟩ := underConditions_next h; cases h; exact .ignored
  | saHalt h' =>
    obtain ⟨hc, h⟩ := underConditions_next h
    simp only [Conditions.selects_saHalt, Bool.and_eq_true, Bool.not_eq_true'] at hc
    refine unlessHalted_effect rfl h (fun hn => ?_) .ignored
    have := haltingAllowed_of_conditions hn (by simp_all) (by simp_all)
    simp_all [State.entryConditionOf, State.conditions]
  | ohNoauth e d o h' =>
    refine otherHalting_effect h fun _ _ hr => ?_
    cases hr
    exact otherHalting_pended_effect s e
  | ohDlk e o h' =>
    refine otherHalting_effect h fun _ _ hr => ?_
    cases hr
    exact otherHalting_pended_effect s e
  | ohHalt e o h' =>
    refine otherHalting_effect h fun hs hc hr => ?_
    simp only [Conditions.selects_halt, Bool.and_eq_true, Bool.not_eq_true'] at hc
    have key (hn : s.halted = false) : s.haltingAllowed = true :=
      haltingAllowed_of_conditions hn hc.1 hc.2
    rcases hs with rfl | rfl
    · exact unlessHalted_effect rfl hr key (otherHalting_pended_effect s .haltingStep)
    · exact unlessHalted_effect rfl hr key (otherHalting_pended_effect s .resetCatch)
  | hltA64 imm => cases h; exact haltInstruction_effect s
  | hltA32 c a b =>
    change (if _ then _ else _) = _ at h
    split at h
    · cases h; exact haltInstruction_effect s
    · cases h
  | hltT32 imm => cases h; exact haltInstruction_effect s

/-- `exec` never faults. -/
theorem exec_ne_fault (i : Instr) (s : State) (r : Fault) : exec i s ≠ .fault r := by
  have under : ∀ {m p : BitVec 4} {o : Host.Outcome State Fault Refusal},
      o ≠ .fault r → s.underConditions m p o ≠ .fault r := by
    intro m p o ho hf
    unfold State.underConditions at hf
    split at hf
    · exact ho hf
    · cases hf
  have halting : ∀ {n d : Host.Outcome State Fault Refusal}, n ≠ .fault r → d ≠ .fault r →
      s.unlessHalted n d ≠ .fault r := by
    intro n d hn hd
    rcases unlessHalted_cases s n d with ⟨-, he⟩ | ⟨-, he⟩ <;> rwa [he]
  have other : ∀ {e : OtherHalting} {m p : BitVec 4} {o : Host.Outcome State Fault Refusal},
      o ≠ .fault r → otherHalting e m p o s ≠ .fault r := by
    intro e m p o ho
    rcases otherHalting_cases e m p o s with ⟨-, he⟩ | ⟨-, he⟩ <;> rw [he]
    · exact nofun
    · exact under ho
  cases i with
  | otherSw | hltA64 | hltT32 => exact nofun
  | bwHalt e =>
    refine under (halting ?_ nofun)
    cases e with
    | breakpoint b => cases b <;> exact nofun
    | watchpoint => exact nofun
  | hltHalt | ecDlk | ecHalt | saHalt => exact under (halting nofun nofun)
  | ohNoauth | ohDlk => exact other nofun
  | ohHalt => exact other (halting nofun nofun)
  | hltA32 c a b =>
    intro h
    change (if _ then _ else _) = _ at h
    split at h <;> cases h
  | _ => exact under nofun

end Sys2Proof.Machine
end

