-- ==== Sys2Proof/Laws/Step.lean ====
section
/-! SUPPORT. What each step of an agent, and a step of the machine, can do. -/

namespace Sys2Proof.Machine

@[simp] theorem instructionNext_nil {s : State} (h : s.agenda = []) : s.instructionNext = true := by
  simp [State.instructionNext, h]

@[simp] theorem instructionNext_cons {s : State} {m : Move} {rest : List Move}
    (h : s.agenda = m :: rest) : s.instructionNext = m.needsExecution := by
  simp [State.instructionNext, h]

/-- The three things a step of the machine can be. -/
theorem step_cases (s : State) :
    (∃ c, s.held = some c ∧ s.canReachPreciseState = true ∧ s.instructionNext = true ∧
      step s = .next (s.tickOn.enterDebugState c true)) ∨
    ((s.held = none ∨ s.canReachPreciseState = false) ∧ s.agenda = [] ∧
      step s = .next s.tickOn) ∨
    (∃ m rest, s.agenda = m :: rest ∧
      (s.held = none ∨ s.canReachPreciseState = false ∨ m.needsExecution = false) ∧
      step s = act m (s.advance rest)) := by
  unfold step stepOnce State.stepAgenda
  cases h₁ : s.held <;> cases h₂ : s.canReachPreciseState <;> cases h₃ : s.agenda with
  | nil => simp [State.tickOn, State.instructionNext, h₃]
  | cons m rest =>
    cases h₄ : m.needsExecution <;>
      simp [State.advance, State.tickOn, State.instructionNext, h₃, h₄]

/-- A held entry that can be precise is taken before an instruction. -/
theorem step_taken {s : State} {c : EventType} (hh : s.held = some c)
    (hp : s.canReachPreciseState = true) (hn : s.instructionNext = true) :
    step s = .next (s.tickOn.enterDebugState c true) := by
  unfold step stepOnce
  simp [hh, hp, hn]

/-- The step of the agenda takes place where no held entry must come before it. -/
theorem step_agenda {s : State} {m : Move} {rest : List Move} (ha : s.agenda = m :: rest)
    (hh : s.held = none ∨ s.canReachPreciseState = false ∨ m.needsExecution = false) :
    step s = act m (s.advance rest) := by
  rcases step_cases s with ⟨c, hc, hp, hn, -⟩ | ⟨-, hn, -⟩ | ⟨m', rest', ha', -, hs⟩
  · rw [instructionNext_cons ha] at hn
    simp_all
  · rw [ha] at hn; cases hn
  · rw [ha] at ha'
    cases ha'
    exact hs

/-- An agent's step that answers a next state is well-formed, and either does not take place, because
an entry is held and it needs an instruction, or takes place. -/
theorem act_next {m : Move} {s t : State} (h : act m s = .next t) :
    m.wellFormed s.params = true ∧
      ((s.held.isSome = true ∧ m.needsExecution = true ∧ t = s) ∨
        ((s.held = none ∨ m.needsExecution = false) ∧ actFreely m s = .next t)) := by
  unfold act at h
  split at h
  case isTrue hw =>
    refine ⟨hw, ?_⟩
    split at h
    case isTrue hn =>
      rw [Bool.and_eq_true] at hn
      cases h
      exact .inl ⟨hn.1, hn.2, rfl⟩
    case isFalse hn =>
      refine .inr ⟨?_, h⟩
      cases hh : s.held with
      | none => exact .inl rfl
      | some c =>
        rw [hh] at hn
        exact .inr (by simpa using hn)
  case isFalse => cases h

theorem act_free {m : Move} {s : State} (hw : m.wellFormed s.params = true)
    (hh : s.held = none ∨ m.needsExecution = false) : act m s = actFreely m s := by
  unfold act
  rcases hh with h | h <;> simp [hw, h]

/-! ## The debugger's moves -/

/-- What `WriteCBRRQ` can do. -/
theorem writeCbrrq_next {v : Bool} {s t : State} (h : writeCbrrq v s = .next t) :
    t = s ∨ (v = true ∧ s.params.cbrrq = true ∧ s.cbrrqWriteIgnored = false ∧
      s.pending.externalDebugRequest = true ∧ t = { s with cbrrqRequested := true }) := by
  unfold writeCbrrq at h
  split at h
  · cases h; exact .inl rfl
  · split at h
    · cases h; exact .inl rfl
    · split at h
      · cases h; exact .inl rfl
      · split at h
        · cases h
        · cases h
          simp_all

/-- The two things `ImpreciseEntry` can do. -/
theorem impreciseEntry_cases (s : State) :
    (s.impreciseEntryEnabled = true ∧
      impreciseEntry s = .next ((s.cancelOutstandingMemoryAccesses.enterDebugState
        .externalDebugRequest false).unknownRegisters)) ∨
    (s.impreciseEntryEnabled = false ∧ impreciseEntry s = .next s) := by
  unfold impreciseEntry
  cases s.impreciseEntryEnabled <;> simp

/-- The two things `TakePending` can do. -/
theorem takePending_cases (p : Pendable) (s : State) :
    (s.takeEnabled p = true ∧ takePending p s = .next (s.enterDebugState p.type true)) ∨
    (s.takeEnabled p = false ∧ takePending p s = .next s) := by
  unfold takePending
  cases s.takeEnabled p <;> simp

theorem haltingAllowed_of_takeEnabled {s : State} {p : Pendable} (h : s.takeEnabled p = true) :
    s.pending.has p = true ∧ s.haltingAllowed = true ∧ s.canReachPreciseState = true := by
  simpa [State.takeEnabled, and_assoc] using h

theorem haltingAllowed_of_impreciseEntryEnabled {s : State}
    (h : s.impreciseEntryEnabled = true) :
    s.params.cbrrq = true ∧ s.cbrrqRequested = true ∧
      s.pending.externalDebugRequest = true ∧ s.haltingAllowed = true := by
  simpa [State.impreciseEntryEnabled, and_assoc] using h

/-- What executing the ITR can do. -/
theorem runItr_next {after : Registers} {s t : State} (h : runItr after s = .next t) :
    t = s ∨ (s.halted = true ∧ t = { s with registers := after, itr := none }) := by
  unfold runItr at h
  split at h
  · split at h
    · cases h; exact .inl rfl
    · split at h
      · cases h
      · cases h; exact .inr ⟨‹_›, rfl⟩
    · cases h; exact .inr ⟨‹_›, rfl⟩
  · cases h; exact .inl rfl

/-! ## The environment -/

/-- A change that takes place leaves the inputs of the outcome alone where an entry is held. -/
theorem changeControl_next {c : Control} {s t : State} (h : changeControl c s = .next t) :
    t = s.change c ∧ (s.held.isSome = true → (s.change c).outcomeInputs = s.outcomeInputs) := by
  unfold changeControl at h
  split at h
  · cases h
  · cases h
    refine ⟨rfl, fun hh => ?_⟩
    by_contra hne
    simp_all

/-- With no entry held a change takes place. -/
theorem changeControl_of_not_held {s : State} (h : s.held = none) (c : Control) :
    changeControl c s = .next (s.change c) := by
  simp [changeControl, h]

/-- A change in the same step as an event leaves the inputs of the outcome alone, but where the event
is asynchronous and no entry is held. -/
theorem changeDuringEvent_next {c : Control} {e : Event} {s t : State}
    (h : changeDuringEvent c e s = .next t) :
    ((s.change c).outcomeInputs = s.outcomeInputs ∨ (e.asynchronous = true ∧ s.held = none)) ∧
      generate e (s.change c) = .next t := by
  unfold changeDuringEvent at h
  split at h
  · cases h
  · refine ⟨?_, h⟩
    by_contra hn
    cases hh : s.held <;> cases ha : e.asynchronous <;> simp_all

/-- An asynchronous event is pended in every state (41_halting_debug_events.md R86, R88). -/
theorem generate_asynchronous {e : Event} (h : e.asynchronous = true) (s : State) :
    ∃ p, e.type.pendable = some p ∧ p ≠ .exceptionCatch ∧
      generate e s = .next (s.pendEvent p) := by
  unfold generate
  rcases s.conditions with ⟨_ | _, _ | _, o, d⟩ <;> cases e <;>
    first | (cases h; done) | exact ⟨_, rfl, nofun, rfl⟩

/-- A change touches none of these. -/
theorem change_frame (s : State) (c : Control) :
    (s.change c).halted = s.halted ∧ (s.change c).params = s.params ∧
      (s.change c).pending = s.pending ∧ (s.change c).cbrrqRequested = s.cbrrqRequested ∧
      (s.change c).entryCause = s.entryCause ∧ (s.change c).entryImprecise = s.entryImprecise ∧
      (s.change c).held = s.held ∧ (s.change c).registers = s.registers ∧
      (s.change c).itr = s.itr ∧ (s.change c).outcome = s.outcome ∧
      (s.change c).tick = s.tick ∧ (s.change c).agenda = s.agenda := by
  cases c with
  | oslk less v =>
    simp only [State.change]
    split <;> simp
  | auth x v => cases x <;> simp [State.change, State.setAuth]
  | _ => simp [State.change]

/-- A change reads neither the agenda nor the step count. -/
theorem change_advance (s : State) (c : Control) (rest : List Move) :
    (s.advance rest).change c = (s.change c).advance rest := by
  cases c with
  | oslk less v =>
    have ht : (s.advance rest).osLockWriteTrapped less = s.osLockWriteTrapped less := rfl
    simp only [State.change, ht]
    split <;> rfl
  | auth x v => cases x <;> rfl
  | _ => rfl

/-- What halting allowed reads is among the inputs of the outcome. -/
theorem haltingAllowed_congr {s t : State} (h : s.outcomeInputs = t.outcomeInputs) :
    s.haltingAllowed = t.haltingAllowed := by
  simp only [State.outcomeInputs, OutcomeInputs.mk.injEq] at h
  obtain ⟨h₁, h₂, h₃, h₄, h₅, h₆, h₇, -, -⟩ := h
  rw [haltingAllowed_eq, haltingAllowed_eq, h₁, h₂]
  simp only [State.authenticationAllows, h₃]
  cases t.security <;> simp [State.authOf, h₄, h₅, h₆, h₇]

/-- What an entry condition reads is among the inputs of the outcome. -/
theorem entryConditionOf_congr {s t : State} (h : s.outcomeInputs = t.outcomeInputs)
    (c : EventType) : s.entryConditionOf c = t.entryConditionOf c := by
  have ha := haltingAllowed_congr h
  simp only [State.outcomeInputs, OutcomeInputs.mk.injEq] at h
  obtain ⟨-, -, -, -, -, -, -, h₈, h₉⟩ := h
  cases c <;> simp [State.entryConditionOf, State.haltOnBreakpointOrWatchpoint, ha, h₈, h₉]

/-- What a reset can do. -/
theorem resetMachine_cases (i : Init) (b : Bool) (s : State) :
    (s.halted = true ∧ resetMachine i b s = .next s) ∨
    (s.halted = false ∧ b = true ∧ resetMachine i b s = generate .resetCatch (s.resetTo i)) ∨
    (s.halted = false ∧ b = false ∧ resetMachine i b s = .next (s.resetTo i)) := by
  unfold resetMachine
  cases s.halted <;> cases b <;> simp

/-! ## Simultaneous events -/

/-- A candidate comes from an event of the set. -/
theorem candidate_origin {s : State} {gs : List Generated} {c : Candidate}
    (h : c ∈ gs.filterMap s.candidate) : ∃ g ∈ gs, s.candidate g = some c := by
  simpa [List.mem_filterMap] using h

/-- A member of the leading candidates is a candidate, and none has a lesser place. -/
theorem mem_leading {cs : List Candidate} {c : Candidate} :
    c ∈ leading cs ↔ c ∈ cs ∧ ∀ d ∈ cs, c.priority ≤ d.priority := by
  simp [leading]

/-- The candidate selected is one of the leading ones. -/
theorem select_mem_leading {s : State} {cs : List Candidate} {c : Candidate}
    (h : s.select cs = some c) : c ∈ leading cs := by
  unfold State.select at h
  split at h
  · cases h
  · cases h; simp_all
  · rename_i c₀ ds hne hl
    cases h
    rw [hl]
    have hlt : Config.tieBreak s.tick % (c₀ :: ds).length < (c₀ :: ds).length :=
      Nat.mod_lt _ (by simp)
    rw [List.getD_eq_getElem _ _ hlt]
    exact List.getElem_mem _

/-- What `SelectSynchronous` can do: pend alone, or pend and take a leading candidate. -/
theorem selectSynchronous_next {s t : State} {gs : List Generated} {trap : Bool}
    (h : s.selectSynchronous gs trap = .next t) :
    t = s.pendAll gs ∨
    ∃ c ∈ leading (gs.filterMap s.candidate),
      t = ((s.pendAll gs).performTaking c.taking).trapAfter s trap := by
  unfold State.selectSynchronous at h
  split at h
  · cases h
  · split at h
    · cases h; exact .inl rfl
    · cases h; exact .inr ⟨_, select_mem_leading ‹_›, rfl⟩

/-- Where halting is allowed no event has the outcome of being pended (41_halting_debug_events.md R71,
R79). -/
theorem pendedBy_of_haltingAllowed {s : State} (h : s.haltingAllowed = true) (g : Generated) :
    s.pendedBy g = none := by
  cases g with
  | nonDebug n => rfl
  | event e =>
    have key : s.debugEventAction e ≠ .pended := by
      cases e with
      | breakpoint b | watchpoint =>
        simp only [State.debugEventAction, State.breakpointOrWatchpointAction, State.bwNotHalting]
        split <;> [exact nofun; (split <;> [exact nofun; (split <;> exact nofun)])]
      | breakpointInstruction | softwareStep | vectorCatch f => exact nofun
      | haltInstruction | softwareAccess =>
        simp only [State.debugEventAction, State.haltingDebugEventAction, State.notEnteringAction]
        split <;> exact nofun
      | _ =>
        simp [State.debugEventAction, State.haltingDebugEventAction, State.typeCondition, h]
    simp [State.pendedBy, key]

/-- Where halting is allowed several events pend nothing. -/
theorem pendAll_of_haltingAllowed {s : State} (h : s.haltingAllowed = true)
    (gs : List Generated) : s.pendAll gs = s.ignoreEvent := by
  simp [State.pendAll, State.ignoreEvent, pendedBy_of_haltingAllowed h]

/-- A Halting debug event has the outcome of entry only on its entry condition
(41_halting_debug_events.md R71, R80). -/
theorem haltingDebugEventAction_enter {s : State} {e : Event}
    (h : s.haltingDebugEventAction e = .enterDebugState) :
    s.haltingAllowed = true ∧ s.typeCondition e = true := by
  unfold State.haltingDebugEventAction at h
  by_cases hc : (s.haltingAllowed && s.typeCondition e) = true
  · simpa using hc
  · rw [if_neg hc] at h
    cases e with
    | exceptionCatch p =>
      simp only [State.notEnteringAction, State.exceptionCatchNotHaltingAction] at h
      split at h <;> [cases h; (split at h <;> [cases h; (split at h <;> cases h)])]
    | _ => cases h

/-- A breakpoint or watchpoint has the outcome of entry only on its entry condition
(42_breakpoint_watchpoint.md R90). -/
theorem breakpointOrWatchpointAction_enter {s : State}
    (h : s.breakpointOrWatchpointAction = .enterDebugState) :
    s.haltOnBreakpointOrWatchpoint = true := by
  unfold State.breakpointOrWatchpointAction at h
  by_cases hc : s.haltOnBreakpointOrWatchpoint = true
  · exact hc
  · rw [if_neg hc] at h
    simp only [State.bwNotHalting] at h
    split at h <;> [cases h; (split at h <;> cases h)]

/-- An entry taken by selection is a synchronous event's, on its entry condition. -/
theorem candidate_enter {s : State} {g : Generated} {n : Nat} {e : Event}
    (hw : g.wellFormed = true) (h : s.candidate g = some ⟨n, .enter e⟩) :
    g = .event e ∧ e.type.canHalt = true ∧ s.entryConditionOf e.type = true := by
  cases g with
  | nonDebug p => simp [State.candidate] at h
  | event e' =>
    have he : s.debugEventAction e' = .enterDebugState ∧ e' = e := by
      unfold State.candidate at h
      dsimp only at h
      split at h
      · simp only [Option.some.injEq, Candidate.mk.injEq, Taking.enter.injEq] at h
        exact ⟨‹_›, h.2⟩
      all_goals simp at h
    obtain ⟨ha, rfl⟩ := he
    refine ⟨rfl, ?_⟩
    cases e' with
    | breakpointInstruction => cases ha
    | softwareStep => cases ha
    | vectorCatch f => cases ha
    | externalDebugRequest => cases hw
    | osUnlockCatch => cases hw
    | breakpoint b => exact ⟨rfl, breakpointOrWatchpointAction_enter ha⟩
    | watchpoint => exact ⟨rfl, breakpointOrWatchpointAction_enter ha⟩
    | _ =>
      obtain ⟨h₁, h₂⟩ := haltingDebugEventAction_enter ha
      exact ⟨rfl, by simp_all [State.entryConditionOf, State.typeCondition, Event.type]⟩

end Sys2Proof.Machine
end

