-- ==== Sys2Proof/Laws/Effect.lean ====
section
/-! SUPPORT. Everything a step of the machine can do, said once: an invariant of the machine is a
case analysis over `step_effect`. -/

namespace Sys2Proof.Machine

/-- `t` has the controls, the inputs, the registers and the parameters of `s`. -/
structure Keeps (s t : State) : Prop where
  security             : t.security = s.security
  execState            : t.execState = s.execState
  authNs               : t.authNs = s.authNs
  authS                : t.authS = s.authS
  authRl               : t.authRl = s.authRl
  authRt               : t.authRt = s.authRt
  osDoubleLockLocked   : t.osDoubleLockLocked = s.osDoubleLockLocked
  oslk                 : t.oslk = s.oslk
  hde                  : t.hde = s.hde
  mde                  : t.mde = s.mde
  mdbgen               : t.mdbgen = s.mdbgen
  tdosaEl3             : t.tdosaEl3 = s.tdosaEl3
  tdosaHyp             : t.tdosaHyp = s.tdosaHyp
  itr                  : t.itr = s.itr
  registers            : t.registers = s.registers
  outstanding          : t.outstanding = s.outstanding
  canReachPreciseState : t.canReachPreciseState = s.canReachPreciseState
  params               : t.params = s.params

theorem Keeps.of_advance {s t : State} {rest : List Move} (h : Keeps (s.advance rest) t) :
    Keeps s t :=
  ⟨h.1, h.2, h.3, h.4, h.5, h.6, h.7, h.8, h.9, h.10, h.11, h.12, h.13, h.14, h.15, h.16, h.17, h.18⟩

/-- States with the same controls and inputs, both in Debug state or both not, give every debug event
the same inputs. -/
theorem Keeps.outcomeInputs {s t : State} (h : Keeps s t) (hh : t.halted = s.halted) :
    t.outcomeInputs = s.outcomeInputs := by
  simp only [State.outcomeInputs, State.doubleLockStatus, h.params, h.security, hh, h.authNs,
    h.authS, h.authRl, h.authRt, h.osDoubleLockLocked, h.oslk, h.hde]

/-- An entry condition holds only where halting is allowed, and for a cause that can halt. -/
theorem haltingAllowed_of_entryConditionOf {s : State} {c : EventType}
    (h : s.entryConditionOf c = true) : s.haltingAllowed = true ∧ c.canHalt = true := by
  cases c <;>
    simp_all [State.entryConditionOf, State.haltOnBreakpointOrWatchpoint, EventType.canHalt]

/-- `ExceptionCatch` is pending in `u` only if it was in `s`, or may be pended. -/
def CatchPendedByRule (s u : State) : Prop :=
  u.pending.exceptionCatch = true →
    s.pending.exceptionCatch = true ∨ s.params.featDebugv8p8 = true

/-- What a step that changes no control can do: enter Debug state precisely, hold an entry, or
neither. -/
inductive Effect (s : State) : State → Prop where
  | enter (u : State) (c : EventType) (hk : Keeps s u) (hh : u.halted = s.halted)
      (hc : s.haltingAllowed = true ∧ c.canHalt = true) (hp : u.pending = s.pending)
      (hd : u.handed = s.handed) : Effect s (u.enterDebugState c true)
  | hold (u : State) (c : EventType) (hk : Keeps s u) (hh : u.halted = s.halted)
      (hc : s.entryConditionOf c = true) (hp : CatchPendedByRule s u)
      (he : u.entryCause = s.entryCause) (hi : u.entryImprecise = s.entryImprecise)
      (hq : u.cbrrqRequested = s.cbrrqRequested) :
      Effect s { u with held := some c, outcome := some .enterDebugState }
  | stay (t : State) (hk : Keeps s t) (hh : t.halted = s.halted) (hp : CatchPendedByRule s t)
      (he : t.entryCause = s.entryCause) (hi : t.entryImprecise = s.entryImprecise)
      (hq : t.cbrrqRequested = s.cbrrqRequested) (hd : t.held = s.held) : Effect s t

theorem Effect.of_advance {s t : State} {rest : List Move} (h : Effect (s.advance rest) t) :
    Effect s t := by
  cases h with
  | enter u c hk hh hc hp hd => exact .enter u c hk.of_advance hh hc hp hd
  | hold u c hk hh hc hp he hi hq => exact .hold u c hk.of_advance hh hc hp he hi hq
  | stay _ hk hh hp he hi hq hd => exact .stay _ hk.of_advance hh hp he hi hq hd

theorem Keeps.refl (s : State) : Keeps s s := by constructor <;> rfl

theorem Effect.refl (s : State) : Effect s s := .stay s (.refl s) rfl .inl rfl rfl rfl rfl

/-- A row of the table has one of the three effects. -/
theorem Effect.of_row {s t : State} (h : RowEffect s t) : Effect s t := by
  cases h with
  | ignored => exact .stay _ (by constructor <;> rfl) rfl .inl rfl rfl rfl rfl
  | pended p hp =>
    refine .stay _ (by constructor <;> rfl) rfl (fun h => ?_) rfl rfl rfl rfl
    cases p with
    | exceptionCatch => exact .inr (hp rfl)
    | _ => exact .inl h
  | handed e k hk => exact .stay _ (by constructor <;> rfl) rfl .inl rfl rfl rfl rfl
  | undefined => exact .stay _ (by constructor <;> rfl) rfl .inl rfl rfl rfl rfl
  | entered c hc h =>
    rcases enterOrHold_cases s c with ⟨-, he⟩ | ⟨-, he⟩ <;> rw [he]
    · exact .enter s c (.refl s) rfl (haltingAllowed_of_entryConditionOf h) rfl rfl
    · exact .hold s c (.refl s) rfl h .inl rfl rfl rfl

/-- Several events pend `ExceptionCatch` only where it may be pended. -/
theorem catchPendedByRule_pendAll (s : State) (gs : List Generated) :
    CatchPendedByRule s (s.pendAll gs) := by
  intro h
  by_contra hc
  have hf : s.params.featDebugv8p8 = false := by simp_all
  have hn : ∀ p ∈ gs.filterMap s.pendedBy, p ≠ .exceptionCatch := by
    rintro p hp rfl
    obtain ⟨g, -, hg⟩ := List.mem_filterMap.1 hp
    cases g with
    | nonDebug n => cases hg
    | event e =>
      simp only [State.pendedBy] at hg
      split at hg
      · rename_i ha
        cases e <;> first | (cases hg; done) | skip
        simp only [State.debugEventAction, State.haltingDebugEventAction, State.notEnteringAction,
          State.exceptionCatchNotHaltingAction, hf] at ha
        split at ha <;> simp at ha
      · cases hg
  have key : ∀ (l : List Pendable) (q : Pending), (∀ p ∈ l, p ≠ .exceptionCatch) →
      (l.foldl Pending.insert q).exceptionCatch = q.exceptionCatch := by
    intro l
    induction l with
    | nil => intros; rfl
    | cons a l ih =>
      intro q hq
      refine (ih _ fun p hp => hq p (List.mem_cons_of_mem _ hp)).trans ?_
      have hne := hq a List.mem_cons_self
      cases a <;> first | rfl | exact absurd rfl hne
  exact hc (.inl ((key _ _ hn).symm.trans h))

/-- A trapped Vector Catch exception adds nothing but what it hands over. -/
theorem Effect.trapAfter {s u : State} {trap : Bool} (h : Effect s u)
    (ht : u.handed.length ≠ s.handed.length →
      Effect s (u.handToExceptionModel (.vectorCatch .exceptionTrapping))) :
    Effect s (u.trapAfter s trap) := by
  unfold State.trapAfter
  split
  · exact ht (by simp_all)
  · exact h

/-- Several events of one instruction have one of the three effects. -/
theorem Effect.of_simultaneous {s t : State} {gs : List Generated} {trap : Bool}
    (hw : gs.all Generated.wellFormed = true) (h : s.selectSynchronous gs trap = .next t) :
    Effect s t := by
  have hp := catchPendedByRule_pendAll s gs
  rcases selectSynchronous_next h with rfl | ⟨⟨n, k⟩, hc, rfl⟩
  · exact .stay _ (by constructor <;> rfl) rfl hp rfl rfl rfl rfl
  cases k with
  | enter e =>
    obtain ⟨g, hg, hg'⟩ := candidate_origin (mem_leading.1 hc).1
    obtain ⟨-, -, hce⟩ := candidate_enter (List.all_eq_true.1 hw _ hg) hg'
    rcases enterOrHold_cases (s.pendAll gs) e.type with ⟨-, he⟩ | ⟨-, he⟩ <;>
      refine .trapAfter ?_ fun hx => absurd ?_ hx <;> simp only [State.performTaking] <;> rw [he]
    · have ha := haltingAllowed_of_entryConditionOf hce
      exact .enter _ _ (by constructor <;> rfl) rfl ha
        (by rw [pendAll_of_haltingAllowed ha.1]; rfl) rfl
    · rfl
    · exact .hold _ _ (by constructor <;> rfl) rfl hce hp rfl rfl rfl
    · rfl
  | _ =>
    exact .trapAfter (.stay _ (by constructor <;> rfl) rfl hp rfl rfl rfl rfl)
      fun _ => .stay _ (by constructor <;> rfl) rfl hp rfl rfl rfl rfl

/-- The state a reset leaves, before a Reset Catch debug event is evaluated. -/
def State.afterReset (s : State) (i : Init) (rest : List Move) : State :=
  { State.ofInit s.params i rest with tick := s.tick + 1 }

/-- Everything a step that answers a next state can do. -/
inductive StepEffect (s : State) : State → Prop where
  /-- A held entry is taken. -/
  | taken (c : EventType) (hc : s.held = some c) (hr : s.canReachPreciseState = true) :
      StepEffect s (s.tickOn.enterDebugState c true)
  /-- A step that changes no control. -/
  | plain (t : State) (h : Effect s t) : StepEffect s t
  | reset (i : Init) (b : Bool) (rest : List Move) (t : State) (ha : s.agenda = .reset i b :: rest)
      (hn : s.halted = false) (hw : i.wellFormed s.params = true)
      (h : t = s.afterReset i rest ∨ RowEffect (s.afterReset i rest) t) : StepEffect s t
  | imprecise (rest : List Move) (ha : s.agenda = .impreciseEntry :: rest)
      (he : s.impreciseEntryEnabled = true) :
      StepEffect s ((s.advance rest).cancelOutstandingMemoryAccesses.enterDebugState
        .externalDebugRequest false).unknownRegisters
  | control (c : Control) (rest : List Move) (ha : s.agenda = .control c :: rest)
      (hw : ∀ x, c = .security x → s.params.implements x = true)
      (ho : s.held.isSome = true → ((s.advance rest).change c).outcomeInputs = s.outcomeInputs) :
      StepEffect s ((s.advance rest).change c)
  | during (c : Control) (e : Event) (rest : List Move) (t : State)
      (ha : s.agenda = .during c e :: rest)
      (hw : ∀ x, c = .security x → s.params.implements x = true)
      (ho : ((s.advance rest).change c).outcomeInputs = s.outcomeInputs ∨
        (e.asynchronous = true ∧ s.held = none))
      (hd : s.held = none ∨ e.asynchronous = true)
      (h : generate e ((s.advance rest).change c) = .next t) : StepEffect s t
  | writeItr (k : ItrInstruction) (rest : List Move) (ha : s.agenda = .writeItr k :: rest) :
      StepEffect s { s.advance rest with itr := some k }
  | runItr (after : Registers) (rest : List Move) (ha : s.agenda = .runItr after :: rest)
      (hh : s.halted = true) : StepEffect s { s.advance rest with registers := after, itr := none }
  | executes (after : Registers) (rest : List Move) (ha : s.agenda = .executes after :: rest)
      (hh : s.halted = false) : StepEffect s { s.advance rest with registers := after }
  | request (rest : List Move) (ha : s.agenda = .writeCbrrq true :: rest)
      (hc : s.params.cbrrq = true) :
      StepEffect s { s.advance rest with cbrrqRequested := true }

/-- Every next state that `step` answers is one of these. -/
theorem step_effect {s t : State} (h : step s = .next t) : StepEffect s t := by
  rcases step_cases s with ⟨c, hc, hr, -, hs⟩ | ⟨-, -, hs⟩ | ⟨m, rest, ha, -, hs⟩
  · rw [hs] at h
    cases h
    exact .taken c hc hr
  · rw [hs] at h
    cases h
    exact .plain _ (.stay _ (by constructor <;> rfl) rfl .inl rfl rfl rfl rfl)
  rw [hs] at h
  have idle : StepEffect s (s.advance rest) := .plain _ (Effect.refl _).of_advance
  obtain ⟨hw, ⟨-, -, rfl⟩ | ⟨hn, h⟩⟩ := act_next h
  · exact idle
  have row : ∀ {i : Instr} {t : State}, exec i (s.advance rest) = .next t → StepEffect s t :=
    fun h => .plain _ (Effect.of_row (exec_next_effect h)).of_advance
  cases m with
  | word w =>
    simp only [actFreely, runWord] at h
    split at h
    · exact row h
    · cases h
  | event e => exact row h
  | simultaneous gs trap => exact .plain _ (Effect.of_simultaneous hw h).of_advance
  | during c e =>
    obtain ⟨ho, h⟩ := changeDuringEvent_next h
    refine .during c e rest t ha ?_ ho ?_ h
    · rintro x rfl
      exact hw
    · rcases hn with hn | hn
      · exact .inl hn
      · simp [Move.needsExecution] at hn
        exact .inr hn.2
  | control c =>
    obtain ⟨rfl, ho⟩ := changeControl_next h
    exact .control c rest ha (by rintro x rfl; exact hw) ho
  | writeCbrrq v =>
    rcases writeCbrrq_next h with rfl | ⟨rfl, hc, -, -, rfl⟩
    · exact idle
    · exact .request rest ha hc
  | take p =>
    rcases takePending_cases p (s.advance rest) with ⟨he, hx⟩ | ⟨-, hx⟩ <;>
      cases hx.symm.trans h
    · exact .plain _ (.enter (s.advance rest) p.type (by constructor <;> rfl) rfl
        ⟨(haltingAllowed_of_takeEnabled he).2.1, by cases p <;> rfl⟩ rfl rfl)
    · exact idle
  | impreciseEntry =>
    rcases impreciseEntry_cases (s.advance rest) with ⟨he, hx⟩ | ⟨-, hx⟩ <;>
      cases hx.symm.trans h
    · exact .imprecise rest ha he
    · exact idle
  | dropPending p =>
    cases h
    refine .plain _ (.stay _ (by constructor <;> rfl) rfl (fun h => .inl ?_) rfl rfl rfl rfl)
    cases p <;> first | exact h | cases h
  | writeItr k =>
    cases h
    exact .writeItr k rest ha
  | runItr after =>
    rcases runItr_next h with rfl | ⟨hh, rfl⟩
    · exact idle
    · exact .runItr after rest ha hh
  | executes after =>
    simp only [actFreely, executeOrdinary] at h
    split at h <;> cases h
    · exact idle
    · rename_i hh
      exact .executes after rest ha (by simpa using hh)
  | exceptionModelTakes =>
    cases h
    exact .plain _ (.stay _ (by constructor <;> rfl) rfl .inl rfl rfl rfl rfl)
  | reset i b =>
    rcases resetMachine_cases i b (s.advance rest) with ⟨-, hx⟩ | ⟨hh, -, hx⟩ | ⟨hh, -, hx⟩
    · cases hx.symm.trans h
      exact idle
    · exact .reset i b rest t ha hh hw (.inr (exec_next_effect (hx.symm.trans h)))
    · cases hx.symm.trans h
      exact .reset i b rest _ ha hh hw (.inl rfl)

end Sys2Proof.Machine
end

