-- ==== Sys2Proof/Laws/PerInstr.lean ====
section
/-! SUPPORT. Facts about every instruction as syntax, one lemma per constructor. -/

/-- A row of Table H2-1 is the one that its own event and condition vector select; an `HLT` encoding
is no row of the table. -/
def Sys2Proof.Laws.SelectedByItsConditions.Statement (i : Sys2Proof.Instr) : Prop :=
  match i.eventAndConditions with
  | some (e, c) => Sys2Proof.rowOf e c = i
  | none        => i.tableRowNumber = none

namespace Sys2Proof.Laws.SelectedByItsConditions

theorem otherSw (e : OtherSoftware) (a d o h : Bool) : Statement (.otherSw e a d o h) :=
  rowOf_of_eventAndConditions rfl

theorem bwDlk (e : BreakOrWatch) (a o h : Bool) : Statement (.bwDlk e a o h) :=
  rowOf_of_eventAndConditions rfl

theorem bwOslk (e : BreakOrWatch) (a h : Bool) : Statement (.bwOslk e a h) :=
  rowOf_of_eventAndConditions rfl

theorem bwNoauth (e : BreakOrWatch) (h : Bool) : Statement (.bwNoauth e h) :=
  rowOf_of_eventAndConditions rfl

theorem bwHde0 (e : BreakOrWatch) : Statement (.bwHde0 e) := rowOf_of_eventAndConditions rfl

theorem bwHalt (e : BreakOrWatch) : Statement (.bwHalt e) := rowOf_of_eventAndConditions rfl

theorem hltNoauth (d o h : Bool) : Statement (.hltNoauth d o h) := rowOf_of_eventAndConditions rfl

theorem hltDlk (o h : Bool) : Statement (.hltDlk o h) := rowOf_of_eventAndConditions rfl

theorem hltHde0 (o : Bool) : Statement (.hltHde0 o) := rowOf_of_eventAndConditions rfl

theorem hltHalt (o : Bool) : Statement (.hltHalt o) := rowOf_of_eventAndConditions rfl

theorem ecNoauth (p : CatchPriority) (d o h : Bool) : Statement (.ecNoauth p d o h) :=
  rowOf_of_eventAndConditions rfl

theorem ecDlk (p : CatchPriority) (o h : Bool) : Statement (.ecDlk p o h) :=
  rowOf_of_eventAndConditions rfl

theorem ecHalt (p : CatchPriority) (o h : Bool) : Statement (.ecHalt p o h) :=
  rowOf_of_eventAndConditions rfl

theorem saNoauth (d o h : Bool) : Statement (.saNoauth d o h) := rowOf_of_eventAndConditions rfl

theorem saDlk (o h : Bool) : Statement (.saDlk o h) := rowOf_of_eventAndConditions rfl

theorem saOslk (h : Bool) : Statement (.saOslk h) := rowOf_of_eventAndConditions rfl

theorem saHalt (h : Bool) : Statement (.saHalt h) := rowOf_of_eventAndConditions rfl

theorem ohNoauth (e : OtherHalting) (d o h : Bool) : Statement (.ohNoauth e d o h) :=
  rowOf_of_eventAndConditions rfl

theorem ohDlk (e : OtherHalting) (o h : Bool) : Statement (.ohDlk e o h) :=
  rowOf_of_eventAndConditions rfl

theorem ohHalt (e : OtherHalting) (o h : Bool) : Statement (.ohHalt e o h) :=
  rowOf_of_eventAndConditions rfl

theorem hltA64 (imm16 : BitVec 16) : Statement (.hltA64 imm16) := rfl

theorem hltA32 (cond : BitVec 4) (imm12 : BitVec 12) (imm4 : BitVec 4) :
    Statement (.hltA32 cond imm12 imm4) := rfl

theorem hltT32 (imm6 : BitVec 6) : Statement (.hltT32 imm6) := rfl

end Sys2Proof.Laws.SelectedByItsConditions
end

