-- ==== Sys2Proof/Tests/Slice0.lean ====
section
/-! SUPPORT. Tests: what is refused as ill-formed, words written out from the encodings, one step per
row of the table and per program of 95_test_vectors.md, and for every obligation with hypotheses a
state that meets them. -/

namespace Sys2Proof.Tests

open Sys2Proof.Machine

/-! ## Helpers -/

/-- Non-secure, Non-debug state with the four conditions as given: the start states of
95_test_vectors.md section 4 (Security state `NonSecure`, the other inputs FALSE). -/
def at4 (a d o h : Bool) : State :=
  { State.reset with
    security := .nonSecure, authNs := a, osDoubleLockLocked := d, oslk := o, hde := h }

/-- The same PE in Debug state. -/
def halted4 (a d o h : Bool) : State :=
  { at4 a d o h with halted := true, entryCause := some .watchpoint }

/-- A state whose agents do `ms` next. -/
def doing (s : State) (ms : List Move) : State := { s with agenda := ms }

/-- A state whose next state meets `p`. -/
def nextIs (o : Host.Outcome State Fault Refusal) (p : State → Bool) : Bool :=
  match o with
  | .next t => p t
  | _       => false

/-- A step that is refused for a reason. -/
def refusedAs (o : Host.Outcome State Fault Refusal) (r : Refusal) : Bool :=
  match o with
  | .refused q => q == r
  | _          => false

/-- A step that ends in the fault. -/
def faults (o : Host.Outcome State Fault Refusal) : Bool :=
  match o with
  | .fault _ => true
  | _        => false

/-- The parameters of Example H2-1 (95_test_vectors.md section 1.3). -/
def exampleParams : Params := { resetParams with featRme := false, featDebugv8p8 := false }

/-- The start state of Example H2-1: the memory system is not responding. -/
def example1 : State :=
  { at4 true false false false with
    params := exampleParams, authS := true, canReachPreciseState := false, outstanding := 3
    registers := ⟨[7, 9], 5, 1⟩ }

/-- A PE whose breakpoint entry is held. -/
def holding : State :=
  { at4 true false false true with held := some .breakpoint, canReachPreciseState := false }

/-! ## Ill-formed terms are refused -/

theorem test_hltA32_cond_ill_formed : (Instr.hltA32 0 0 0).wellFormed = false := by decide
theorem test_hltA32_cond_well_formed : (Instr.hltA32 14 0 0).wellFormed = true := by decide
theorem test_asynchronous_ill_formed :
    Generated.wellFormed (.event .externalDebugRequest) = false := by decide
theorem test_osUnlockCatch_ill_formed :
    Generated.wellFormed (.event .osUnlockCatch) = false := by decide
theorem test_exceptionTrapping_ill_formed :
    Generated.wellFormed (.event (.vectorCatch .exceptionTrapping)) = false := by decide
theorem test_debug_place_ill_formed : Generated.wellFormed (.nonDebug 10) = false := by decide
theorem test_place_0_ill_formed : Generated.wellFormed (.nonDebug 0) = false := by decide
theorem test_place_49_ill_formed : Generated.wellFormed (.nonDebug 49) = false := by decide
theorem test_place_48_well_formed : Generated.wellFormed (.nonDebug 48) = true := by decide
theorem test_places : nonDebugPlaces =
    [4, 5, 7, 8, 9, 11, 12] ++ List.range' 14 26 ++ [41, 42, 43, 44, 45, 47, 48] := by decide
theorem test_security_ill_formed :
    Move.wellFormed { resetParams with hasRealm := false } (.control (.security .realm)) = false := by
  decide
theorem test_during_security_ill_formed :
    Move.wellFormed { resetParams with hasRealm := false }
      (.during (.security .realm) .watchpoint) = false := by decide
theorem test_init_security_ill_formed :
    Init.wellFormed { resetParams with hasRoot := false } resetInit = false := by decide
theorem test_init_pending_ill_formed :
    Init.wellFormed { resetParams with featDebugv8p8 := false }
      { resetInit with pending := { Pending.empty with exceptionCatch := true } } = false := by decide
theorem test_simultaneous_ill_formed :
    Move.wellFormed resetParams (.simultaneous [.nonDebug 13] false) = false := by decide
theorem test_ill_formed_move_faults :
    faults (step (doing (at4 true false false true) [.simultaneous [.nonDebug 13] false])) = true := by
  decide

/-! ## Words -/

/-- `HLT #0` of `A64`: 1101 0100 010 then `imm16` = 0 then 00000 (30_encoding.md R52). -/
theorem test_decode_hltA64 :
    decode 0b11010100010000000000000000000000#32 = .ok (.hltA64 0) := by decide
/-- `imm16` = 0x8001 stands in bits 20 to 5. -/
theorem test_decode_hltA64_imm :
    decode 0b11010100010100000000000000100000#32 = .ok (.hltA64 0x8001) := by decide
/-- `cond` 1110, 0001 0000, `imm12` = 0x801, 0111, `imm4` = 9. -/
theorem test_decode_hltA32 :
    decode 0b11100001000010000000000101111001#32 = .ok (.hltA32 0b1110 0x801 9) := by decide
/-- 1011 1010 10 then `imm6` = 33. -/
theorem test_decode_hltT32 :
    decode 0b00000000000000001011101010100001#32 = .ok (.hltT32 33) := by decide
/-- A word of `T32` stands alone in its 32 bits. -/
theorem test_decode_T32_high_bits :
    decode 0b00000000000000011011101010100001#32 = .error .noTableRow := by decide
/-- Bits 4 to 0 of an `A64` `HLT` are 0. -/
theorem test_decode_A64_low_bits :
    decode 0b11010100010000000000000000000001#32 = .error .noTableRow := by decide

/-! One condition vector of each of the twenty rows (45_summary_table.md R137 to R156), under the
model's own event numbers (notes/assumptions/3.md). -/

theorem test_decode_otherSw : decode 0x39 = .ok (.otherSw .softwareStep true false false true) := by
  decide
theorem test_decode_bwDlk : decode 0x0D = .ok (.bwDlk (.breakpoint .other) true false true) := by
  decide
theorem test_decode_bwOslk : decode 0x2B = .ok (.bwOslk .watchpoint true true) := by decide
theorem test_decode_bwNoauth : decode 0x01 = .ok (.bwNoauth (.breakpoint .other) true) := by decide
theorem test_decode_bwHde0 : decode 0x28 = .ok (.bwHde0 .watchpoint) := by decide
theorem test_decode_bwHalt : decode 0x19 = .ok (.bwHalt (.breakpoint .addressMismatch)) := by decide
theorem test_decode_hltNoauth : decode 0x71 = .ok (.hltNoauth false false true) := by decide
theorem test_decode_hltDlk : decode 0x7D = .ok (.hltDlk false true) := by decide
theorem test_decode_hltHde0 : decode 0x78 = .ok (.hltHde0 false) := by decide
theorem test_decode_hltHalt : decode 0x7B = .ok (.hltHalt true) := by decide
theorem test_decode_ecNoauth : decode 0x81 = .ok (.ecNoauth .two false false true) := by decide
theorem test_decode_ecDlk : decode 0x9D = .ok (.ecDlk .six false true) := by decide
theorem test_decode_ecHalt : decode 0x9A = .ok (.ecHalt .six true false) := by decide
theorem test_decode_saNoauth : decode 0xA1 = .ok (.saNoauth false false true) := by decide
theorem test_decode_saDlk : decode 0xAD = .ok (.saDlk false true) := by decide
theorem test_decode_saOslk : decode 0xAB = .ok (.saOslk true) := by decide
theorem test_decode_saHalt : decode 0xA8 = .ok (.saHalt false) := by decide
theorem test_decode_ohNoauth : decode 0xB1 = .ok (.ohNoauth .haltingStep false false true) := by
  decide
theorem test_decode_ohDlk : decode 0xDD = .ok (.ohDlk .resetCatch false true) := by decide
theorem test_decode_ohHalt : decode 0xCA = .ok (.ohHalt .externalDebugRequest true false) := by
  decide
theorem test_decode_event_15 : decode 0xF9 = .error .reservedEventNumber := by decide
theorem test_decode_256 : decode 0x100 = .error .noTableRow := by decide
theorem test_encode_ohHalt : encode (.ohHalt .osUnlockCatch false true) = 0xE9 := by decide
theorem test_table_word : decodeTableWord 16 0xBA80 = some (.hltT32 0) := by decide
theorem test_table_word_too_wide : decodeTableWord 32 0x1D4400000 = none := by decide

/-! ## One step per row: the vectors of 95_test_vectors.md section 1.1 -/

theorem test_row2 :
    nextIs (generate (.breakpoint .other) (at4 true true false true)) (·.outcome == some .ignored)
      = true := by decide
theorem test_row3 :
    nextIs (generate .watchpoint (at4 true false true true)) (·.outcome == some .ignored) = true := by
  decide
theorem test_row6 :
    nextIs (generate (.breakpoint .other) (at4 true false false true))
      (fun t => t.halted && t.entryCause == some .breakpoint && t.handed == []) = true := by decide
theorem test_row7 :
    nextIs (generate .haltInstruction (at4 false false false true))
      (fun t => !t.halted && t.handed == [.undefinedInstruction]) = true := by decide
theorem test_row8 :
    nextIs (generate .haltInstruction (at4 true true false true))
      (fun t => !t.halted && t.outcome == some .treatedAsUndefined) = true := by decide
theorem test_row9 :
    nextIs (generate .haltInstruction (at4 true false false false))
      (fun t => !t.halted && t.outcome == some .treatedAsUndefined) = true := by decide
theorem test_row10 :
    nextIs (generate .haltInstruction (at4 true false true true))
      (fun t => t.halted && t.entryCause == some .haltInstruction) = true := by decide
theorem test_row11_without_Debugv8p8 :
    nextIs (generate (.exceptionCatch .two)
      { at4 false false false true with params := exampleParams })
      (fun t => t.outcome == some .ignored && t.pending == Pending.empty) = true := by decide
theorem test_row12 :
    nextIs (generate (.exceptionCatch .two) (at4 true true false true))
      (fun t => t.outcome == some .ignored && t.pending == Pending.empty) = true := by decide
theorem test_row13 :
    nextIs (generate (.exceptionCatch .six) (at4 true false true false))
      (fun t => t.halted && t.entryCause == some .exceptionCatch) = true := by decide
theorem test_row14 :
    nextIs (generate .softwareAccess (at4 false false false true)) (·.outcome == some .ignored)
      = true := by decide
theorem test_row15 :
    nextIs (generate .softwareAccess (at4 true true false true)) (·.outcome == some .ignored)
      = true := by decide
theorem test_row16 :
    nextIs (generate .softwareAccess (at4 true false true true)) (·.outcome == some .ignored)
      = true := by decide
theorem test_row17 :
    nextIs (generate .softwareAccess (at4 true false false false))
      (fun t => t.halted && t.entryCause == some .softwareAccess) = true := by decide
theorem test_row18 :
    nextIs (generate .haltingStep (at4 false false false true))
      (fun t => !t.halted && t.pending == { Pending.empty with haltingStep := true }) = true := by
  decide
theorem test_row19 :
    nextIs (generate .resetCatch (at4 true true false true))
      (fun t => !t.halted && t.pending == { Pending.empty with resetCatch := true }) = true := by
  decide
theorem test_row20_haltingStep :
    nextIs (generate .haltingStep (at4 true false true false))
      (fun t => t.halted && t.pending == Pending.empty) = true := by decide
theorem test_row20_externalDebugRequest :
    nextIs (generate .externalDebugRequest (at4 true false true false))
      (fun t => !t.halted && t.pending == { Pending.empty with externalDebugRequest := true }) = true := by
  decide
/-- Rows 1, 4 and 5: the Exception model decides between two answers, and nothing else happens. -/
theorem test_row1 (b : Bool) :
    (at4 true false false true).exceptionGenerated .softwareStep = b →
      generate .softwareStep (at4 true false false true) = .next
        { at4 true false false true with
          handed := bif b then [.softwareStep] else []
          outcome := some (bif b then .debugException else .ignored) } := by
  rintro rfl
  cases h : (at4 true false false true).exceptionGenerated .softwareStep <;>
    simp [generate, rowOf, rowOtherSoftware, exec, execOtherSw,
      State.handToExceptionModel, OtherSoftware.event, h, Event.exceptionKind] <;> rfl
/-- Debug state (45_summary_table.md R159): a second `HLT` is UNDEFINED (program P1, step 2). -/
theorem test_hlt_in_debug_state :
    nextIs (exec (.hltA64 0) (halted4 true false true true))
      (fun t => t.entryCause == some .watchpoint && t.handed == [.undefinedInstruction]) = true := by
  decide
theorem test_hltT32_halts :
    nextIs (exec (.hltT32 5) (at4 true false true true))
      (fun t => t.halted && t.entryCause == some .haltInstruction && !t.entryImprecise) = true := by
  decide
theorem test_hltA32_halts :
    nextIs (exec (.hltA32 14 5 6) (at4 true false true true)) (·.halted) = true := by decide
theorem test_hltA32_cond :
    refusedAs (exec (.hltA32 0 5 6) (at4 true false true true)) .hltConditionNot1110 = true := by
  decide

/-! ## The priority list: 95_test_vectors.md section 1.2 -/

/-- Halting allowed, `HDE = 1`, `OSLK = 0`. -/
def open4 : State := at4 true false false true

theorem test_resetCatch_before_exceptionCatch :
    nextIs (open4.selectSynchronous [.event (.exceptionCatch .two), .event .resetCatch] false)
      (·.entryCause == some .resetCatch) = true := by decide
theorem test_haltingStep_before_exceptionCatch_6 :
    nextIs (open4.selectSynchronous [.event (.exceptionCatch .six), .event .haltingStep] false)
      (·.entryCause == some .haltingStep) = true := by decide
theorem test_exceptionCatch_2_before_haltingStep :
    nextIs (open4.selectSynchronous [.event .haltingStep, .event (.exceptionCatch .two)] false)
      (·.entryCause == some .exceptionCatch) = true := by decide
theorem test_softwareAccess_before_watchpoint :
    nextIs (open4.selectSynchronous [.event .watchpoint, .event .softwareAccess] false)
      (·.entryCause == some .softwareAccess) = true := by decide
theorem test_place_4_before_breakpoint :
    nextIs (open4.selectSynchronous [.event (.breakpoint .other), .nonDebug 4] false)
      (fun t => !t.halted && t.handed == [.nonDebug 4]) = true := by decide
theorem test_breakpoint_before_place_11 :
    nextIs (open4.selectSynchronous [.nonDebug 11, .event (.breakpoint .other)] false)
      (fun t => t.entryCause == some .breakpoint && t.handed == []) = true := by decide
/-- Program P5 and its variants. -/
theorem test_P5 :
    nextIs (open4.selectSynchronous
      [.event .haltInstruction, .event .watchpoint, .event (.breakpoint .other)] false)
      (fun t => t.entryCause == some .breakpoint && t.handed == [] &&
        t.pending == Pending.empty) = true := by decide
theorem test_P5b :
    nextIs ((at4 true false true true).selectSynchronous
      [.event .haltInstruction, .event .watchpoint, .event (.breakpoint .other)] false)
      (·.entryCause == some .haltInstruction) = true := by decide
theorem test_P5c : (at4 true false true false).selectSynchronous
      [.event .haltInstruction, .event .watchpoint, .event (.breakpoint .other)] false =
    .next { at4 true false true false with
      handed := [.undefinedInstruction], outcome := some .treatedAsUndefined } := by
  have h : leading [⟨ExceptionKind.undefinedInstruction.place, .undefined⟩] =
      [⟨ExceptionKind.undefinedInstruction.place, .undefined⟩] := by simp [leading]
  simp only [State.selectSynchronous, State.select]
  rw [show List.filterMap _ _ = [⟨ExceptionKind.undefinedInstruction.place, .undefined⟩] from rfl, h]
  rfl
/-- The last vector of section 1.2: the step is pended, the access ignored. -/
theorem test_prohibited_step_does_not_compete :
    nextIs ((at4 false false false true).selectSynchronous
      [.event .haltingStep, .event .softwareAccess] false)
      (fun t => !t.halted && t.pending == { Pending.empty with haltingStep := true }) = true := by
  decide

/-! ## Steps of the programs of 95_test_vectors.md sections 1.3 and 4 -/

/-- P2, step 5: the request is taken, the step stays pending. -/
theorem test_P2_take :
    nextIs (step (doing { at4 true false false false with
      pending := { Pending.empty with externalDebugRequest := true, haltingStep := true } }
      [.take .externalDebugRequest]))
      (fun t => t.halted && t.entryCause == some .externalDebugRequest &&
        t.pending == { Pending.empty with haltingStep := true }) = true := by decide
/-- P2, step 6: no further take is enabled in Debug state. -/
theorem test_P2_no_second_take :
    nextIs (step (doing { halted4 true false false false with
      pending := { Pending.empty with haltingStep := true } } [.take .haltingStep]))
      (fun t => t.entryCause == some .watchpoint && t.pending.haltingStep) = true := by decide
/-- P3, step 1: `EDSCR.HDE` is written although the OS Lock is locked. -/
theorem test_P3_hde :
    nextIs (step (doing (at4 true false true false) [.control (.hde .software true)]))
      (fun t => t.hde && t.oslk) = true := by decide
/-- P3: the unlock and the breakpoint in one step are refused. -/
theorem test_P3_coincide :
    refusedAs (step (doing (at4 true false true true)
      [.during (.oslk false false) (.breakpoint .other)])) .conditionsChanged = true := by decide
/-- P6, step 1: a reset with the OS Double Lock locked. -/
theorem test_P6_reset :
    nextIs (step (doing State.reset [.reset
      { resetInit with authNs := true, authS := true, authRl := true, authRt := true
                       osDoubleLockLocked := true } true]))
      (fun t => !t.halted && t.security == .root &&
        t.pending == { Pending.empty with resetCatch := true }) = true := by decide
/-- Example H2-1: the take is not enabled; the write is accepted; with `auth_s` FALSE it is ignored;
before the request it is refused; the forced entry is imprecise and cancels the accesses. -/
theorem test_H2_1_no_take :
    nextIs (step (doing { example1 with
      pending := { Pending.empty with externalDebugRequest := true } } [.take .externalDebugRequest]))
      (fun t => !t.halted && t.pending.externalDebugRequest) = true := by decide
theorem test_H2_1_write :
    nextIs (step (doing { example1 with
      pending := { Pending.empty with externalDebugRequest := true } } [.writeCbrrq true]))
      (·.cbrrqRequested) = true := by decide
theorem test_H2_1_write_ignored :
    nextIs (step (doing { example1 with
      authS := false, pending := { Pending.empty with externalDebugRequest := true } }
      [.writeCbrrq true])) (!·.cbrrqRequested) = true := by decide
theorem test_H2_1_write_too_early :
    refusedAs (step (doing example1 [.writeCbrrq true])) .cbrrqWithoutPendingRequest = true := by
  decide
theorem test_H2_1_forced :
    nextIs (step (doing { example1 with
      cbrrqRequested := true
      pending := { Pending.empty with externalDebugRequest := true } } [.impreciseEntry]))
      (fun t => t.halted && t.entryImprecise && t.entryCause == some .externalDebugRequest &&
        t.pending == Pending.empty && t.outstanding == 0) = true := by decide
theorem test_itr_refused :
    refusedAs (step (doing { halted4 true false false true with
      entryImprecise := true, itr := some .memoryAccess } [.runItr ⟨[], 1, 2⟩]))
      .itrMemoryAccessAfterImpreciseEntry = true := by decide
theorem test_trap_of_os_lock_write :
    nextIs (step (doing { at4 true false true true with tdosaHyp := true }
      [.control (.oslk true false)])) (fun t => t.oslk && t.handed == [.osLockWriteTrap]) = true := by
  decide
/-- A row does not read the columns it leaves out (45_summary_table.md R136, row 2 of R138). -/
theorem test_row2_other_columns :
    nextIs (exec (.bwDlk .watchpoint true true true) (at4 false true false false))
      (·.outcome == some .ignored) = true := by decide
/-- Row 1 in Debug state with its Authentication input TRUE (45_summary_table.md R132, R137). -/
theorem test_row1_in_debug_state :
    nextIs (exec (.otherSw .softwareStep true false false true) (halted4 true false false true))
      (fun t => t.halted && t.held == none && t.pending == Pending.empty) = true := rfl
/-- Row 20 of an asynchronous event is pended under any conditions (41_halting_debug_events.md R86). -/
theorem test_row20_under_other_conditions :
    nextIs (exec (.ohHalt .externalDebugRequest true true) (halted4 false true false false))
      (·.pending.externalDebugRequest) = true := by decide
/-- A synchronous row whose conditions changed is refused (40_outcomes_and_halting_allowed.md R62). -/
theorem test_row20_haltingStep_under_other_conditions :
    refusedAs (exec (.ohHalt .haltingStep true true) (at4 false false true true)) .conditionsChanged
      = true := by decide
/-- While an entry is held an External Debug Request is pended, by a word of the table too, and once
the PE can reach a precise state it, or the held entry, is taken (44_imprecise_entry.md R120). -/
theorem test_request_while_holding :
    nextIs (step (doing holding [.word 0xC9]))
      (fun t => t.pending.externalDebugRequest && t.held == some .breakpoint) = true := by decide
theorem test_take_while_holding :
    (∀ m ∈ [Move.take .externalDebugRequest, .impreciseEntry],
      nextIs (step (doing { holding with
        canReachPreciseState := true, cbrrqRequested := true
        pending := { Pending.empty with externalDebugRequest := true } } [m]))
        (fun t => t.entryCause == some .externalDebugRequest && t.held == none) = true) ∧
    nextIs (step (doing { holding with canReachPreciseState := true } [.word 0xA9]))
      (fun t => t.entryCause == some .breakpoint && t.agenda == [.word 0xA9]) = true := by decide
/-- A change that is no input of the outcome is made before the event (notes/assumptions/36.md). -/
theorem test_change_before_event :
    nextIs (step (doing (at4 true false false true) [.during (.precise false) .haltInstruction]))
      (fun t => !t.halted && t.held == some .haltInstruction) = true := by decide
theorem test_undecoded :
    refusedAs (step (doing State.reset [.word 0x100])) (.undecoded .noTableRow) = true := by decide
theorem test_placed_word_runs :
    nextIs (step (State.reset.withFetchWord 32 0xD4400000))
      (·.handed == [.undefinedInstruction]) = true := by decide
theorem test_placed_row_runs :
    nextIs (step (State.reset.withFetchWord 8 0x2D)) (·.outcome == some .ignored) = true := by decide
theorem test_reset_idles : nextIs (step State.reset) (·.tick == 1) = true := by decide

/-! ## Witnesses: a state and operands that meet the hypotheses of each obligation together -/

theorem atRow_at4 (a d o h : Bool) : (at4 a d o h).AtRow a d o h := by
  cases d <;> exact ⟨rfl, rfl, rfl, rfl, rfl⟩

theorem witness_BreakOrWatchIgnoredUnderDoubleLock :
    (at4 false true true true).AtRow false true true true ∧
    (at4 true true false false).AtRow true true false false := ⟨atRow_at4 .., atRow_at4 ..⟩
theorem witness_BreakOrWatchIgnoredUnderOsLock :
    (at4 true false true true).AtRow true false true true ∧
    (at4 false false true false).AtRow false false true false := ⟨atRow_at4 .., atRow_at4 ..⟩
theorem witness_BreakOrWatchGoesToExceptionModel :
    (at4 false false false true).AtRow false false false true ∧
    (at4 true false false false).AtRow true false false false := ⟨atRow_at4 .., atRow_at4 ..⟩
theorem witness_BreakOrWatchEntersDebugState :
    (at4 true false false true).AtRow true false false true ∧
    BreakOrWatch.watchpoint ≠ .breakpoint .addressMismatch ∧
    BreakOrWatch.breakpoint .other ≠ .breakpoint .addressMismatch ∧
    (at4 true false false true).canReachPreciseState = true :=
  ⟨atRow_at4 .., by decide, by decide, rfl⟩
/-- Each way the type is not reserved, alone. -/
theorem witness_ReservedBreakpointRefused :
    (open4.hde = true ∧ open4.haltingAllowed = true ∧ open4.oslk = false) ∧
    ((at4 true false false false).hde = false ∧ (at4 true false false false).haltingAllowed = true) ∧
    ((at4 false false false true).haltingAllowed = false ∧ (at4 false false false true).hde = true) ∧
    ((at4 true false true true).oslk = true ∧ (at4 true false true true).haltingAllowed = true) := by
  decide
theorem witness_HaltInstructionUndefined :
    (at4 false false false true).AtRow false false false true ∧
    (at4 true true false true).AtRow true true false true ∧
    (at4 true false true false).AtRow true false true false :=
  ⟨atRow_at4 .., atRow_at4 .., atRow_at4 ..⟩
theorem witness_HaltInstructionEntersDebugState :
    (at4 true false true true).AtRow true false true true ∧
    (at4 true false true true).canReachPreciseState = true := ⟨atRow_at4 .., rfl⟩
theorem witness_ExceptionCatchPendedOrIgnored :
    (({ at4 false true true false with params := exampleParams } : State).AtRow
        false true true false ∧ exampleParams.featDebugv8p8 = false) ∧
    ((at4 false false true true).AtRow false false true true ∧
      (at4 false false true true).params.featDebugv8p8 = true) ∧
    (at4 true true false true).AtRow true true false true :=
  ⟨⟨⟨rfl, rfl, rfl, rfl, rfl⟩, rfl⟩, ⟨atRow_at4 .., rfl⟩, atRow_at4 ..⟩
theorem witness_ExceptionCatchEntersDebugState :
    (at4 true false true false).AtRow true false true false ∧
    (at4 true false true false).canReachPreciseState = true := ⟨atRow_at4 .., rfl⟩
theorem witness_SoftwareAccessIgnored :
    (at4 false true false true).AtRow false true false true ∧
    (at4 true true true false).AtRow true true true false ∧
    (at4 true false true true).AtRow true false true true :=
  ⟨atRow_at4 .., atRow_at4 .., atRow_at4 ..⟩
theorem witness_SoftwareAccessEntersDebugState :
    (at4 true false false false).AtRow true false false false ∧
    (at4 true false false false).canReachPreciseState = true := ⟨atRow_at4 .., rfl⟩
theorem witness_OtherHaltingPended :
    (at4 false true true true).AtRow false true true true ∧
    (at4 true true false false).AtRow true true false false := ⟨atRow_at4 .., atRow_at4 ..⟩
theorem witness_OtherHaltingEntersDebugState :
    (at4 true false true false).AtRow true false true false ∧
    (at4 true false true false).canReachPreciseState = true := ⟨atRow_at4 .., rfl⟩
theorem witness_HltEncodingsHaltOrAreUndefined :
    (∃ imm, Instr.hltT32 63 = .hltT32 imm) ∧
    ((at4 true false true true).haltingAllowed = true ∧ (at4 true false true true).hde = true ∧
      (at4 true false true true).canReachPreciseState = true) ∧
    (halted4 true false false true).haltingAllowed = false ∧
    (at4 true false false false).hde = false := ⟨⟨63, rfl⟩, by decide⟩
theorem witness_HltEncodingsAgreeWithTheTable :
    (Instr.hltA32 0b1110 0xFFF 0xF).wellFormed = true ∧
    (Instr.hltA32 0b1110 0xFFF 0xF).eventAndConditions = none := ⟨rfl, rfl⟩
theorem witness_HltA32ConditionRefused : (0b1111#4 : BitVec 4) ≠ 0b1110#4 := by decide
theorem witness_DebugEventHasExactlyOneOutcome :
    ∃ t, generate .softwareAccess open4 = .next t := ⟨_, rfl⟩
theorem witness_EventsInDebugState : (halted4 true false false true).halted = true := rfl
theorem witness_HaltingEventsAndDebugExceptionsApart :
    Event.halting .haltInstruction = true ∧
    ∃ t, generate .haltInstruction (at4 false false false true) = .next t := ⟨rfl, _, rfl⟩
theorem witness_CbrrqWriteIgnoredInThreeCases : (at4 false false false false).cbrrqWriteIgnored = true := rfl
theorem witness_DebugExceptionsDoNotReadHde :
    (at4 false false false true).haltOnBreakpointOrWatchpoint = false ∧
    ({ at4 false false false true with hde := false } : State).haltOnBreakpointOrWatchpoint = false :=
  ⟨rfl, rfl⟩
theorem witness_OnlyHaltInstructionReliesOnHde :
    (at4 true false false false).hde = false ∧ (at4 true false false false).haltingAllowed = true ∧
    (at4 true false false false).oslk = false ∧
    (at4 true false false false).canReachPreciseState = true ∧
    Event.halting .haltInstruction = true ∧ Event.halting .softwareAccess = true ∧
    Event.asynchronous .softwareAccess = false ∧ Event.halting .osUnlockCatch = true ∧
    Event.asynchronous .osUnlockCatch = true ∧
    EventType.pendable .osUnlockCatch = some .osUnlockCatch := by decide
theorem witness_AsynchronousEventsAlwaysPended :
    (Instr.ohNoauth .externalDebugRequest true true true).eventAndConditions =
      some (.externalDebugRequest, ⟨false, true, true, true⟩) ∧
    (Instr.ohDlk .osUnlockCatch false false).eventAndConditions =
      some (.osUnlockCatch, ⟨true, true, false, false⟩) := by decide
theorem witness_HaltingAllowedByItsClauses :
    (halted4 true false false true).halted = true ∧
    ((at4 true true false true).params.featDoubleLock = true ∧
      (at4 true true false true).osDoubleLockLocked = true) ∧
    (({ at4 true true false true with
        params := { resetParams with featDoubleLock := false }, security := .realm } : State).halted
      = false) ∧
    (at4 true false false true).osDoubleLockLocked = false ∧
    (at4 true false false true).security = .nonSecure := by decide
theorem witness_EntryHeldUntilPrecise :
    Event.synchronous .watchpoint = true ∧
    ({ open4 with canReachPreciseState := false } : State).entryConditionOf
      (Event.type .watchpoint) = true ∧
    Event.watchpoint ≠ .breakpoint .addressMismatch := by decide
/-- Nothing to come; an instruction to come; neither, with the PE in a precise state or not. -/
theorem witness_HeldEntryTakenFirst :
    (doing { holding with canReachPreciseState := true } []).agenda = [] ∧
    (doing { holding with canReachPreciseState := true } [.word 0xA8]).agenda = [.word 0xA8] ∧
    Move.needsExecution (.word 0xA8) = true ∧
    holding.held = some .breakpoint ∧ holding.canReachPreciseState = false ∧
    Move.wellFormed holding.params (.executes ⟨[], 1, 2⟩) = true ∧
    Move.needsExecution (.executes ⟨[], 1, 2⟩) = true ∧
    Move.wellFormed holding.params (.word 0xC0) = true ∧
    Move.needsExecution (.word 0xC0) = false ∧ Move.needsExecution (.take .haltingStep) = false ∧
    Move.needsExecution (.control (.precise true)) = false := by decide
/-- `TakePending` enabled; and each of its three conditions failing alone. -/
theorem witness_TakePendingTakesOnlyWhenEnabled :
    (∀ s ∈ [{ open4 with pending := { Pending.empty with resetCatch := true } },
        { at4 true true false true with pending := { Pending.empty with resetCatch := true } },
        { open4 with pending := { Pending.empty with resetCatch := true }
                     canReachPreciseState := false }],
      (doing s [.take .resetCatch]).agenda = [.take .resetCatch] ∧ s.held = none ∧
        s.pending.has .resetCatch = true) ∧
    open4.haltingAllowed = true ∧ (at4 true true false true).haltingAllowed = false ∧
    open4.pending.has .resetCatch = false := by decide
theorem witness_PendingAddedAndRemoved :
    (doing open4 [.dropPending .haltingStep]).agenda = [.dropPending .haltingStep] ∧
    open4.held = none ∧
    ({ Pending.empty with haltingStep := true } : Pending).has .haltingStep = true := by decide
/-- A pended event leaves by being dropped, by being taken, and by a reset. -/
theorem witness_PendedEventLeavesOnlyByRule :
    ∃ s : State, s.Inv ∧ s.pending.has .haltingStep = true ∧
      ∀ m ∈ [Move.dropPending .haltingStep, .take .haltingStep, .reset resetInit false],
        nextIs (step (doing s [m])) (fun t => !t.pending.has .haltingStep) = true :=
  ⟨{ open4 with pending := { Pending.empty with haltingStep := true } },
    ⟨rfl, fun h => (by cases h), fun _ => rfl, fun _ (h : none = some _) => (by cases h),
      fun (h : false = true) => (by cases h), fun _ (h : none = some _) => (by cases h)⟩,
    by decide, by decide⟩
/-- A Software Access debug event (40) beside a non-debug exception (41), a watchpoint (46) and a
halt instruction on its entry condition (13, then selected itself). -/
theorem witness_SmallestPriorityNumberSelected :
    ([⟨4, .nonDebug 4⟩, ⟨48, .nonDebug 48⟩] : List Candidate) ≠ [] ∧
    (⟨4, .nonDebug 4⟩ : Candidate) ∈ ([⟨4, .nonDebug 4⟩, ⟨48, .nonDebug 48⟩] : List Candidate) ∧
    (∀ d ∈ ([⟨4, .nonDebug 4⟩, ⟨48, .nonDebug 48⟩] : List Candidate),
      d ≠ ⟨4, .nonDebug 4⟩ → 4 < d.priority) ∧
    (∀ gs ∈ [[Generated.event .watchpoint, .event .softwareAccess, .nonDebug 41],
        [.event .watchpoint, .event .haltInstruction, .nonDebug 14]],
      gs.all Generated.wellFormed = true ∧ gs.any open4.reservedIn = false) ∧
    open4.haltingAllowed = true ∧ open4.hde = true ∧
    (open4.candidate (.event .softwareAccess)).isSome = true ∧
    (open4.candidate (.event .haltInstruction)).isSome = true ∧
    Generated.priority (.event .softwareAccess) = some 40 ∧
    Generated.priority (.event .haltInstruction) = some 13 ∧
    Generated.priority (.nonDebug 41) = some 41 ∧ Generated.priority (.nonDebug 14) = some 14 ∧
    Generated.priority (.event .watchpoint) = some 46 := by decide
/-- An event that becomes no exception, and one that becomes one. -/
theorem witness_OneEventOfAnInstructionIsThatEvent :
    Generated.wellFormed (.event (.vectorCatch .addressMatching)) = true ∧
    Generated.wellFormed (.event .haltInstruction) = true ∧
    nextIs (generate .haltInstruction (at4 false false false true)) (·.handed != []) = true ∧
    (at4 false false false true).handed = [] ∧
    (∃ t, generate .haltInstruction open4 = .next t ∧ t.handed = open4.handed) :=
  ⟨rfl, rfl, by decide, rfl, _, rfl, rfl⟩
theorem witness_BreakpointOrVectorCatchChosen :
    open4.hde = true ∧ open4.haltingAllowed = true ∧ open4.oslk = false ∧
    open4.canReachPreciseState = true := by decide
theorem witness_ProhibitedStepAndResetCatchPended :
    (at4 true true false true).haltingAllowed = false ∧
    nextIs ((at4 true true false true).selectSynchronous
      [.event .haltingStep, .event .resetCatch, .nonDebug 4] false)
      (fun t => t.handed == [.nonDebug 4]) = true := by decide
/-- With an entry selected, held or taken; an exception; an UNDEFINED halt instruction; and nothing
to select. -/
theorem witness_UnselectedEventsDropped :
    (∀ s ∈ [open4, { open4 with canReachPreciseState := false },
        at4 true false true true, at4 true false true false],
      s.haltingAllowed = true ∧
      ∀ gs ∈ [[Generated.event .watchpoint, .event .softwareAccess],
          [.event .watchpoint, .nonDebug 4], [.event .softwareAccess]],
        gs.all Generated.wellFormed = true ∧
        nextIs (s.selectSynchronous gs false) (fun _ => true) = true) ∧
    nextIs (open4.selectSynchronous [.event .watchpoint, .event .softwareAccess] false)
      (fun t => t.entryCause == some .softwareAccess && t.handed == []) = true ∧
    nextIs (open4.selectSynchronous [.event .watchpoint, .nonDebug 4] false)
      (fun t => !t.halted && t.handed == [.nonDebug 4]) = true := by decide
/-- The same row with another value of a column it leaves out; an asynchronous event; another row. -/
theorem witness_RowUnderOtherConditionsRefused :
    (Instr.saHalt true).eventAndConditions = some (.softwareAccess, ⟨true, false, false, true⟩) ∧
    (Instr.saHalt true).tableRowNumber =
      (rowOf .softwareAccess (at4 true false false false).conditions).tableRowNumber ∧
    (Instr.saHalt true).tableRowNumber ≠
      (rowOf .softwareAccess (at4 true false true true).conditions).tableRowNumber ∧
    Event.asynchronous .softwareAccess = false ∧
    (Instr.ohHalt .osUnlockCatch true true).eventAndConditions =
      some (.osUnlockCatch, ⟨true, false, true, true⟩) ∧
    Event.asynchronous .osUnlockCatch = true := by decide
/-- With no entry held: a change of an input with a synchronous event, with an asynchronous one, and a
change of no input. With an entry held: a change of an input, alone and with an asynchronous event, and a
change of none. -/
theorem witness_CoincidentChangeRefused :
    (doing open4 [.during (.hde .debugger false) .watchpoint]).agenda =
      [.during (.hde .debugger false) .watchpoint] ∧
    Move.wellFormed open4.params (.during (.hde .debugger false) .watchpoint) = true ∧
    open4.held = none ∧ Event.asynchronous .watchpoint = false ∧
    (open4.change (.hde .debugger false)).outcomeInputs ≠ open4.outcomeInputs ∧
    Event.asynchronous .externalDebugRequest = true ∧
    (open4.change (.precise false)).outcomeInputs = open4.outcomeInputs ∧
    holding.held.isSome = true ∧ Control.bySoftware (.auth .nonSecure false) = false ∧
    (holding.change (.auth .nonSecure false)).outcomeInputs ≠ holding.outcomeInputs ∧
    Move.wellFormed holding.params (.control (.auth .nonSecure false)) = true ∧
    Move.wellFormed holding.params (.during (.auth .nonSecure false) .osUnlockCatch) = true ∧
    Event.asynchronous .osUnlockCatch = true ∧ Control.bySoftware (.precise true) = false ∧
    (holding.change (.precise true)).outcomeInputs = holding.outcomeInputs ∧
    Move.wellFormed open4.params (.control (.security .realm)) = true ∧
    Move.wellFormed open4.params (.control (.oslk true true)) = true := by decide
/-- The trap by each of the two controls alone, and both ways a write is performed. -/
theorem witness_HdeAndOsLockWrites :
    (doing open4 [.control (.hde .software false)]).agenda = [.control (.hde .software false)] ∧
    (doing open4 [.control (.oslk true true)]).agenda = [.control (.oslk true true)] ∧
    open4.held = none ∧ ({ open4 with tdosaEl3 := true } : State).tdosaEl3 = true ∧
    ({ open4 with tdosaHyp := true } : State).tdosaHyp = true ∧
    open4.tdosaEl3 = false ∧ open4.tdosaHyp = false := by decide
/-- No effect for each of the three reasons; refused; accepted. -/
theorem witness_CbrrqWriteRequests :
    (doing example1 [.writeCbrrq true]).agenda = [.writeCbrrq true] ∧ example1.held = none ∧
    ({ example1 with params := { exampleParams with cbrrq := false } } : State).params.cbrrq = false ∧
    ({ example1 with authS := false } : State).cbrrqWriteIgnored = true ∧
    example1.params.cbrrq = true ∧ example1.cbrrqWriteIgnored = false ∧
    example1.pending.externalDebugRequest = false ∧
    ({ example1 with pending := { Pending.empty with externalDebugRequest := true } } :
      State).pending.externalDebugRequest = true := by decide
/-- Enabled; and each of the four conditions failing. -/
theorem witness_ImpreciseEntryForcesDebugState :
    (doing example1 [.impreciseEntry]).agenda = [.impreciseEntry] ∧ example1.held = none ∧
    example1.params.cbrrq = true ∧ example1.haltingAllowed = true ∧
    ({ example1 with cbrrqRequested := true } : State).cbrrqRequested = true ∧
    ({ example1 with pending := { Pending.empty with externalDebugRequest := true } } :
      State).pending.externalDebugRequest = true ∧
    ({ example1 with params := { exampleParams with cbrrq := false } } : State).params.cbrrq = false ∧
    example1.cbrrqRequested = false ∧ example1.pending.externalDebugRequest = false ∧
    ({ example1 with authNs := false } : State).haltingAllowed = false := by decide
theorem witness_ItrMemoryAccessRefusedAfterImpreciseEntry :
    (∀ k ∈ [ItrInstruction.memoryAccess, .otherInstruction],
      ({ halted4 true false false true with entryImprecise := true, itr := some k } : State).halted
        = true) ∧ (halted4 true false false true).entryImprecise = false := by decide
theorem witness_DebuggerForcesEntry :
    (doing example1 [.event .externalDebugRequest, .take .externalDebugRequest,
      .writeCbrrq true, .impreciseEntry]).agenda = .event .externalDebugRequest ::
        .take .externalDebugRequest :: .writeCbrrq true :: .impreciseEntry :: [] ∧
    example1.held = none ∧ example1.haltingAllowed = true ∧
    example1.canReachPreciseState = false ∧ example1.params.cbrrq = true ∧
    example1.cbrrqWriteIgnored = false := by decide
/-- Without the event; taken (`auth_rt` TRUE); pended (`auth_rt` FALSE). -/
theorem witness_ResetCatchTakenOrPended :
    (∀ b ∈ [true, false], (doing open4 [.reset resetInit b]).agenda = [.reset resetInit b]) ∧
    open4.held = none ∧ open4.halted = false ∧ resetInit.wellFormed open4.params = true ∧
    ({ State.ofInit open4.params { resetInit with authRt := true } [] with
      tick := open4.tick + 1 } : State).haltingAllowed = true ∧
    ({ State.ofInit open4.params resetInit [] with tick := open4.tick + 1 } : State).haltingAllowed
      = false := by decide
theorem witness_StepRunsTheDecodedInstruction :
    open4.held = none ∧ decode 0x000000A9 = .ok (.saHalt true) ∧
    decode 0x000000F0 = .error .reservedEventNumber ∧
    (doing open4 [.word 0xA9]).agenda = [.word 0xA9] ∧
    (doing open4 [.event .resetCatch]).agenda = [.event .resetCatch] := by decide
/-- A word of the table, and one of an `HLT` encoding. -/
theorem witness_PlacedWordRuns :
    decodeTableWord 8 0x85 = some (.ecNoauth .two true false true) ∧
    (Instr.ecNoauth .two true false true).eventAndConditions =
      some (.exceptionCatch .two, ⟨false, true, false, true⟩) ∧
    decodeTableWord 16 0xBABF = some (.hltT32 63) ∧
    (Instr.hltT32 63).eventAndConditions = none := by decide
theorem witness_EncodeDecodeRoundTrip : decode 0xE1000070 = .ok (.hltA32 0b1110 0 0) := by decide

theorem inv_open4 : open4.Inv :=
  ⟨rfl, fun _ => rfl, fun _ => rfl, fun _ (h : none = some _) => (by cases h),
    fun (h : false = true) => (by cases h), fun _ (h : none = some _) => (by cases h)⟩
theorem inv_halted4 : (halted4 true false false true).Inv :=
  ⟨rfl, fun _ => rfl, fun _ => rfl, fun _ h => (by cases h; exact ⟨rfl, rfl⟩),
    fun (h : false = true) => (by cases h), fun _ (h : none = some _) => (by cases h)⟩

theorem witness_EveryStepKeepsTheInvariant :
    ∃ s t, s.Inv ∧ step s = .next t := ⟨open4, _, inv_open4, rfl⟩
theorem witness_NoStepLeavesDebugState :
    ∃ s t, s.Inv ∧ step s = .next t ∧ s.halted = true :=
  ⟨halted4 true false false true, _, inv_halted4, rfl, rfl⟩
/-- A breakpoint enters Debug state. -/
theorem witness_NoEntryAgainstHaltingAllowed :
    ∃ s t, s.Inv ∧ step s = .next t ∧ EntersDebugState s t ∧
      ∀ i b rest, s.agenda ≠ .reset i b :: rest :=
  ⟨doing open4 [.event (.breakpoint .other)], _, inv_open4, rfl, ⟨rfl, rfl⟩,
    fun _ _ _ h => by cases h⟩
theorem witness_OnlyForcedEntryIsImprecise :
    ∃ s t, step s = .next t ∧ EntersDebugState s t ∧ t.entryImprecise = true :=
  ⟨doing { example1 with
      cbrrqRequested := true
      pending := { Pending.empty with externalDebugRequest := true } } [.impreciseEntry],
    _, rfl, ⟨rfl, rfl⟩, rfl⟩
theorem witness_PreciseEntryFrame :
    ∃ s t, step s = .next t ∧ EntersDebugState s t ∧ t.entryImprecise = false ∧
      (∀ c e rest, s.agenda ≠ .during c e :: rest) ∧
      ∀ i b rest, s.agenda ≠ .reset i b :: rest :=
  ⟨doing open4 [.event .haltInstruction], _, rfl, ⟨rfl, rfl⟩, rfl, fun _ _ _ h => (by cases h),
    fun _ _ _ h => by cases h⟩
theorem witness_NoStepChangesTheParameters : ∃ t, step State.reset = .next t := ⟨_, rfl⟩

end Sys2Proof.Tests
end

section
/-! The implementation's parameters (00_scope.md section 4) are the same along every step: said for
each effect that a step can have, and read off `step_effect`. -/

namespace Sys2Proof.Machine

@[simp] theorem change_params (s : State) (c : Control) : (s.change c).params = s.params := by
  obtain ⟨-, hparams, -⟩ := change_frame s c
  exact hparams

@[simp] theorem afterReset_params (s : State) (i : Init) (rest : List Move) :
    (s.afterReset i rest).params = s.params := rfl

/-- A step that changes no control keeps the parameters with the controls. -/
theorem Effect.params_eq {s t : State} (h : Effect s t) : t.params = s.params := by
  cases h with
  | enter u c hk => exact hk.params
  | hold u c hk => exact hk.params
  | stay _ hk => exact hk.params

theorem exec_params {i : Instr} {s t : State} (h : exec i s = .next t) : t.params = s.params :=
  (Effect.of_row (exec_next_effect h)).params_eq

/-- A reset reads the parameters and puts back the same ones; an event met on the way, after a reset
or together with a change, runs a row of the table. -/
theorem StepEffect.params_eq {s t : State} (h : StepEffect s t) : t.params = s.params := by
  cases h with
  | plain _ he => exact he.params_eq
  | reset i b rest _ _ _ _ hr =>
    rcases hr with rfl | hrow
    · exact afterReset_params s i rest
    · exact (Effect.of_row hrow).params_eq.trans (afterReset_params s i rest)
  | control c rest => exact change_params (s.advance rest) c
  | during c e rest _ _ _ _ _ hg => exact (exec_params hg).trans (change_params (s.advance rest) c)
  | taken | imprecise | writeItr | runItr | executes | request => rfl

/-- Settles O60: each effect that `step_effect` lists keeps the parameters. -/
theorem noStepChangesTheParameters : Obligations.NoStepChangesTheParameters :=
  fun _ _ h => (step_effect h).params_eq

end Sys2Proof.Machine
end

section
/-! The invariant of the machine is kept by every step (10_state.md R11, R21, R22;
44_imprecise_entry.md R111, R113, R116; 60_exceptions.md R195): said for an entry to Debug state, for
a step that leaves the entry record as it is, for a change and for a reset, and read off
`step_effect`. -/

namespace Sys2Proof.Machine

/-- An entry to Debug state writes the clauses about requests, the entry record and held entries
itself; it needs the other two of the state before it. -/
theorem inv_enterDebugState {u : State} {c : EventType} {precise : Bool}
    (hsec : u.params.implements u.security = true)
    (hcatch : u.pending.exceptionCatch = true → u.params.featDebugv8p8 = true)
    (hc : c.canHalt = true) (hprecise : precise = false → c = .externalDebugRequest) :
    (u.enterDebugState c precise).Inv := by
  refine ⟨hsec, fun h => hcatch (Pending.has_of_has_eraseType (p := .exceptionCatch) h),
    by simp, ?_, fun h => ?_, by simp⟩
  · rintro _ ⟨⟩
    exact ⟨rfl, hc⟩
  · exact congrArg some (hprecise (by simpa using h))

/-- Where the entry record is left as it is, the invariant asks for the other clauses only. -/
theorem inv_of_entry_record_eq {s t : State} (hs : s.Inv)
    (hsec : t.params.implements t.security = true)
    (hcatch : t.pending.exceptionCatch = true → t.params.featDebugv8p8 = true)
    (hreq : t.cbrrqRequested = true → t.params.cbrrq = true) (hhalted : t.halted = s.halted)
    (hcause : t.entryCause = s.entryCause) (himprecise : t.entryImprecise = s.entryImprecise)
    (hheld : ∀ c, t.held = some c → t.entryConditionOf c = true) : t.Inv := by
  obtain ⟨-, -, -, hrecord, hforced, -⟩ := hs
  refine ⟨hsec, hcatch, hreq, ?_, ?_, hheld⟩
  · rwa [hhalted, hcause]
  · rwa [himprecise, hcause]

/-! A step that changes no control keeps the three clauses about the parameters. -/

theorem Keeps.implements {s t : State} (h : Keeps s t) (hs : s.Inv) :
    t.params.implements t.security = true := by
  obtain ⟨hsec, -⟩ := hs
  rwa [h.params, h.security]

theorem Keeps.exceptionCatch {s t : State} (h : Keeps s t) (hs : s.Inv)
    (hp : CatchPendedByRule s t) (ht : t.pending.exceptionCatch = true) :
    t.params.featDebugv8p8 = true := by
  obtain ⟨-, hcatch, -⟩ := hs
  rw [h.params]
  exact (hp ht).elim hcatch id

theorem Keeps.cbrrqRequested {s t : State} (h : Keeps s t) (hs : s.Inv)
    (hq : t.cbrrqRequested = s.cbrrqRequested) (ht : t.cbrrqRequested = true) :
    t.params.cbrrq = true := by
  obtain ⟨-, -, hreq, -⟩ := hs
  rw [h.params]
  exact hreq (hq ▸ ht)

/-- The controls kept, an entry condition is the same before and after. -/
theorem Keeps.entryConditionOf {s t : State} (h : Keeps s t) (hh : t.halted = s.halted)
    (c : EventType) : t.entryConditionOf c = s.entryConditionOf c :=
  entryConditionOf_congr (h.outcomeInputs hh) c

/-- A step that changes no control keeps the invariant. -/
theorem Effect.inv {s t : State} (h : Effect s t) (hs : s.Inv) : t.Inv := by
  cases h with
  | enter u c hk hh hc hp hd =>
    refine inv_enterDebugState (hk.implements hs) (hk.exceptionCatch hs fun h => .inl ?_) hc.2 nofun
    rwa [hp] at h
  | hold u c hk hh hc hp he hi hq =>
    refine inv_of_entry_record_eq hs (hk.implements hs) (hk.exceptionCatch hs hp)
      (hk.cbrrqRequested hs hq) hh he hi ?_
    rintro _ ⟨⟩
    exact (hk.entryConditionOf hh c).trans hc
  | stay _ hk hh hp he hi hq hd =>
    obtain ⟨-, -, -, -, -, hheld⟩ := id hs
    refine inv_of_entry_record_eq hs (hk.implements hs) (hk.exceptionCatch hs hp)
      (hk.cbrrqRequested hs hq) hh he hi fun c hc => ?_
    rw [hk.entryConditionOf hh]
    exact hheld c (hd ▸ hc)

/-- A row of the table keeps the invariant. -/
theorem exec_inv {i : Instr} {s t : State} (h : exec i s = .next t) (hs : s.Inv) : t.Inv :=
  (Effect.of_row (exec_next_effect h)).inv hs

/-- The Security state after a change is the one before it, or the one the change sets. -/
theorem change_security (s : State) (c : Control) :
    (s.change c).security = s.security ∨ c = .security (s.change c).security := by
  cases c with
  | security x => exact .inr rfl
  | oslk less v =>
    simp only [State.change]
    split <;> exact .inl rfl
  | auth x v => cases x <;> exact .inl rfl
  | _ => exact .inl rfl

/-- A change to an implemented Security state, or to none, keeps the invariant where it leaves the
inputs of a held event's outcome alone. -/
theorem inv_change {s : State} {c : Control} (hs : s.Inv)
    (hw : ∀ x, c = .security x → s.params.implements x = true)
    (ho : s.held.isSome = true → (s.change c).outcomeInputs = s.outcomeInputs) :
    (s.change c).Inv := by
  obtain ⟨hsec, hcatch, hreq, -, -, hheld⟩ := id hs
  obtain ⟨hhalted, hparams, hpending, hrequested, hcause, himprecise, hh, -⟩ := change_frame s c
  refine inv_of_entry_record_eq hs ?_ (by rwa [hpending, hparams]) (by rwa [hrequested, hparams])
    hhalted hcause himprecise fun e he => ?_
  · rw [hparams]
    rcases change_security s c with h | h
    · rwa [h]
    · exact hw _ h
  · rw [hh] at he
    rw [entryConditionOf_congr (ho (by simp [he]))]
    exact hheld e he

/-- A reset to a start state the implementation can have meets the invariant, whatever it was reset
from (70_reset_and_hazards.md R211). -/
theorem inv_afterReset {s : State} {i : Init} (hw : i.wellFormed s.params = true)
    (rest : List Move) : (s.afterReset i rest).Inv := by
  simp only [Init.wellFormed, Bool.and_eq_true, Bool.or_eq_true, Bool.not_eq_true'] at hw
  obtain ⟨hsec, hcatch⟩ := hw
  exact ⟨hsec, fun h => hcatch.resolve_left (ne_false_of_eq_true h), nofun, nofun, nofun, nofun⟩

/-- Each effect that a step can have keeps the invariant. The steps that write the ITR or the
registers write nothing that it reads. -/
theorem StepEffect.inv {s t : State} (h : StepEffect s t) (hs : s.Inv) : t.Inv := by
  obtain ⟨hsec, hcatch, hreq, hrecord, hforced, hheld⟩ := id hs
  cases h with
  | taken c hc _ =>
    exact inv_enterDebugState hsec hcatch (haltingAllowed_of_entryConditionOf (hheld c hc)).2 nofun
  | plain _ he => exact he.inv hs
  | reset i b rest _ _ _ hw hr =>
    rcases hr with rfl | hrow
    · exact inv_afterReset hw rest
    · exact (Effect.of_row hrow).inv (inv_afterReset hw rest)
  | imprecise rest _ _ =>
    exact inv_enterDebugState (u := (s.advance rest).cancelOutstandingMemoryAccesses)
      (c := .externalDebugRequest) (precise := false) hsec hcatch rfl fun _ => rfl
  | control c rest _ hw ho => exact inv_change (s := s.advance rest) hs hw ho
  | during c e rest _ _ hw ho _ hg =>
    refine exec_inv hg (inv_change (s := s.advance rest) hs hw fun hsome => ?_)
    rcases ho with ho | ⟨-, hnone⟩
    · exact ho
    · exact absurd hsome (by simp [hnone])
  | writeItr | runItr | executes => exact hs
  | request rest _ hc => exact ⟨hsec, hcatch, fun _ => hc, hrecord, hforced, hheld⟩

/-- Settles O54: each effect that `step_effect` lists keeps the invariant. -/
theorem everyStepKeepsTheInvariant : Obligations.EveryStepKeepsTheInvariant :=
  fun _ _ hs h => (step_effect h).inv hs

end Sys2Proof.Machine
end

section
/-! How a pended event leaves `Pending` (10_state.md R21; 60_exceptions.md R188, R189, R195). -/

namespace Sys2Proof

/-- The only event type with an entry of `Pending` is that entry's. -/
theorem EventType.eq_type_of_pendable {t : EventType} {p : Pendable} (h : t.pendable = some p) :
    t = p.type := by
  cases t <;> cases h <;> rfl

/-- Erasing a cause removes no other type. -/
theorem Pending.has_eraseType_of_ne {s : Pending} {t : EventType} {p : Pendable}
    (hp : s.has p = true) (h : t ≠ p.type) : (s.eraseType t).has p = true := by
  rcases s.eraseType_cases t with ⟨-, he⟩ | ⟨q, hq, he⟩ <;> rw [he]
  · exact hp
  · rw [Pending.has_erase_of_ne s, hp]
    rintro rfl
    exact h (EventType.eq_type_of_pendable hq)

/-- Adding types removes none. -/
theorem Pending.has_foldl_insert {p : Pendable} (l : List Pendable) {s : Pending}
    (hp : s.has p = true) : (l.foldl Pending.insert s).has p = true := by
  induction l generalizing s with
  | nil => exact hp
  | cons q l ih => exact ih (by simp [Pending.has_insert, hp])

namespace Machine

/-- If `p` is pending in `s` it still is in `t`, or the PE went into Debug state for it. -/
def KeptOrTaken (p : Pendable) (s t : State) : Prop :=
  s.pending.has p = true →
    t.pending.has p = true ∨ (EntersDebugState s t ∧ t.entryCause = some p.type)

section
variable {p : Pendable} {s t : State}

theorem KeptOrTaken.of_pending_eq (h : t.pending = s.pending) : KeptOrTaken p s t :=
  fun hp => .inl (h ▸ hp)

/-- Of the state before, only `Pending` and whether the PE was in Debug state matter. -/
theorem KeptOrTaken.congr_left {u : State} (h : KeptOrTaken p u t) (hp : u.pending = s.pending)
    (hh : u.halted = s.halted) : KeptOrTaken p s t := by
  unfold KeptOrTaken EntersDebugState at h ⊢
  rwa [hp, hh] at h

/-- An entry from Non-debug state takes at most the type of its cause. -/
theorem KeptOrTaken.enterDebugState {u : State} {c : EventType} {precise : Bool}
    (hh : s.halted = false) (hu : s.pending.has p = true → u.pending.has p = true) :
    KeptOrTaken p s (u.enterDebugState c precise) := by
  intro hp
  by_cases hc : c = p.type
  · exact .inr ⟨⟨hh, rfl⟩, congrArg some hc⟩
  · exact .inl (Pending.has_eraseType_of_ne (hu hp) hc)

/-- An entry that is made or held, on the entry condition of its cause. -/
theorem KeptOrTaken.enterOrHold {u : State} {c : EventType} (hc : s.entryConditionOf c = true)
    (hu : s.pending.has p = true → u.pending.has p = true) :
    KeptOrTaken p s (u.enterOrHold c) := by
  rcases enterOrHold_cases u c with ⟨-, he⟩ | ⟨-, he⟩ <;> rw [he]
  · exact .enterDebugState
      (not_halted_of_haltingAllowed (haltingAllowed_of_entryConditionOf hc).1) hu
  · exact fun hp => .inl (hu hp)

/-- A row of the table removes no pended event but by an entry for it. -/
theorem KeptOrTaken.of_row (h : RowEffect s t) : KeptOrTaken p s t := by
  cases h with
  | ignored | handed | undefined => exact .of_pending_eq rfl
  | pended q _ => exact fun hp => .inl (by simp [Pending.has_insert, hp])
  | entered c _ hc => exact .enterOrHold hc id

theorem KeptOrTaken.of_exec {i : Instr} (h : exec i s = .next t) : KeptOrTaken p s t :=
  .of_row (exec_next_effect h)

/-- A trapped Vector Catch exception leaves `Pending` and the entry record as they are. -/
theorem KeptOrTaken.trapAfter {u before : State} {trap : Bool} (h : KeptOrTaken p s u) :
    KeptOrTaken p s (u.trapAfter before trap) := by
  unfold State.trapAfter
  split <;> exact h

/-- Several events of one instruction pend first, and the one selected may enter. -/
theorem KeptOrTaken.of_simultaneous {gs : List Generated} {trap : Bool}
    (hw : gs.all Generated.wellFormed = true) (h : s.selectSynchronous gs trap = .next t) :
    KeptOrTaken p s t := by
  have hpend : s.pending.has p = true → (s.pendAll gs).pending.has p = true :=
    Pending.has_foldl_insert _
  rcases selectSynchronous_next h with rfl | ⟨⟨n, taking⟩, hc, rfl⟩
  · exact fun hp => .inl (hpend hp)
  refine .trapAfter ?_
  cases taking with
  | enter e =>
    obtain ⟨g, hg, hg'⟩ := candidate_origin (mem_leading.1 hc).1
    obtain ⟨-, -, hce⟩ := candidate_enter (List.all_eq_true.1 hw _ hg) hg'
    exact .enterOrHold hce hpend
  | exceptionModel | undefined | nonDebug => exact fun hp => .inl (hpend hp)

/-- A change leaves `Pending` as it is, so that the event met after it decides. -/
theorem KeptOrTaken.of_change {c : Control} (h : KeptOrTaken p (s.change c) t) :
    KeptOrTaken p s t := by
  obtain ⟨hhalted, -, hpending, -⟩ := change_frame s c
  exact h.congr_left hpending hhalted

/-- An agent's step other than a reset and the removal of `p` keeps `p` pending or takes it. -/
theorem KeptOrTaken.of_actFreely {m : Move} (hw : m.wellFormed s.params = true)
    (hdrop : m ≠ .dropPending p) (hreset : ∀ i b, m ≠ .reset i b)
    (h : actFreely m s = .next t) : KeptOrTaken p s t := by
  cases m with
  | word w =>
    simp only [actFreely, runWord] at h
    split at h
    · exact .of_exec h
    · cases h
  | event e => exact .of_exec h
  | simultaneous gs trap => exact .of_simultaneous hw h
  | during c e => exact KeptOrTaken.of_change (.of_exec (changeDuringEvent_next h).2)
  | control c =>
    obtain ⟨rfl, -⟩ := changeControl_next h
    exact KeptOrTaken.of_change (.of_pending_eq rfl)
  | writeCbrrq v =>
    rcases writeCbrrq_next h with rfl | ⟨-, -, -, -, rfl⟩ <;> exact .of_pending_eq rfl
  | take q =>
    rcases takePending_cases q s with ⟨he, hx⟩ | ⟨-, hx⟩ <;> cases hx.symm.trans h
    · obtain ⟨-, ha, -⟩ := haltingAllowed_of_takeEnabled he
      exact .enterDebugState (not_halted_of_haltingAllowed ha) id
    · exact .of_pending_eq rfl
  | impreciseEntry =>
    rcases impreciseEntry_cases s with ⟨he, hx⟩ | ⟨-, hx⟩ <;> cases hx.symm.trans h
    · obtain ⟨-, -, -, ha⟩ := haltingAllowed_of_impreciseEntryEnabled he
      exact KeptOrTaken.enterDebugState (u := s.cancelOutstandingMemoryAccesses)
        (c := .externalDebugRequest) (precise := false) (not_halted_of_haltingAllowed ha) id
    · exact .of_pending_eq rfl
  | dropPending q =>
    cases h
    refine fun hp => .inl ((Pending.has_erase_of_ne _ ?_).trans hp)
    rintro rfl
    exact hdrop rfl
  | runItr after => rcases runItr_next h with rfl | ⟨-, rfl⟩ <;> exact .of_pending_eq rfl
  | executes after =>
    simp only [actFreely, executeOrdinary] at h
    split at h <;> cases h <;> exact .of_pending_eq rfl
  | writeItr | exceptionModelTakes => cases h; exact .of_pending_eq rfl
  | reset i b => exact absurd rfl (hreset i b)

/-- A step of the machine other than a reset and the removal of `p` keeps `p` pending or takes it. -/
theorem KeptOrTaken.of_step (hs : s.Inv) (h : step s = .next t)
    (hdrop : ∀ rest, s.agenda ≠ .dropPending p :: rest)
    (hreset : ∀ i b rest, s.agenda ≠ .reset i b :: rest) : KeptOrTaken p s t := by
  rcases step_cases s with ⟨c, hc, -, -, hstep⟩ | ⟨-, -, hstep⟩ | ⟨m, rest, ha, -, hstep⟩ <;>
    rw [hstep] at h
  · cases h
    obtain ⟨-, -, -, -, -, hheld⟩ := hs
    exact .enterDebugState
      (not_halted_of_haltingAllowed (haltingAllowed_of_entryConditionOf (hheld c hc)).1) id
  · cases h
    exact .of_pending_eq rfl
  · obtain ⟨hw, ⟨-, -, rfl⟩ | ⟨-, hact⟩⟩ := act_next h
    · exact .of_pending_eq rfl
    · refine KeptOrTaken.congr_left (u := s.advance rest) (.of_actFreely hw ?_ ?_ hact) rfl rfl
      · rintro rfl
        exact hdrop rest ha
      · rintro i b rfl
        exact hreset i b rest ha

end

/-- Settles O32: a type no longer pending was not kept, so that a step that neither removes it nor
resets the PE took it. -/
theorem pendedEventLeavesOnlyByRule : Obligations.PendedEventLeavesOnlyByRule := by
  intro p s t hs h hp hnot
  by_cases hdrop : ∃ rest, s.agenda = .dropPending p :: rest
  · exact .inl hdrop
  by_cases hreset : ∃ i b rest, s.agenda = .reset i b :: rest
  · exact .inr (.inl hreset)
  push Not at hdrop hreset
  have hkept : KeptOrTaken p s t := .of_step hs h hdrop hreset
  exact .inr (.inr ((hkept hp).resolve_left (by simp [hnot])))

end Machine

end Sys2Proof
end

section
/-! The writes of `EDSCR.HDE` and of the OS Lock (10_state.md R16, R17). -/

namespace Sys2Proof.Machine

/-- With no entry held, the step of a well-formed change makes the change. -/
theorem step_control_of_not_held {s : State} {c : Control} {rest : List Move}
    (ha : s.agenda = .control c :: rest) (hh : s.held = none)
    (hw : (Move.control c).wellFormed s.params = true) :
    step s = .next ((s.advance rest).change c) := by
  calc step s = act (.control c) (s.advance rest) := step_agenda ha (.inl hh)
    _ = changeControl c (s.advance rest) := act_free hw (.inl hh)
    _ = .next ((s.advance rest).change c) := changeControl_of_not_held (s := s.advance rest) hh c

/-- A trapped write of the OS Lock is handed over and not performed. -/
theorem change_oslk_of_trapped {s : State} {less : Bool} (h : s.osLockWriteTrapped less = true)
    (v : Bool) :
    s.change (.oslk less v) = { s with handed := s.handed ++ [.osLockWriteTrap] } :=
  if_pos h

/-- Every other write of the OS Lock is performed. -/
theorem change_oslk_of_not_trapped {s : State} {less : Bool}
    (h : s.osLockWriteTrapped less = false) (v : Bool) :
    s.change (.oslk less v) = { s with oslk := v } :=
  if_neg (by simp [h])

/-- Settles O41: both writes are well-formed changes, and `TDOSA` decides whether the one of the OS
Lock is trapped. -/
theorem hdeAndOsLockWrites : Obligations.HdeAndOsLockWrites := by
  refine ⟨fun who v s rest ha hh => step_control_of_not_held ha hh rfl,
    fun less v s rest ha hh => ⟨fun hless htdosa => ?_, fun hperformed => ?_⟩⟩ <;>
    rw [step_control_of_not_held ha hh rfl]
  · have htrapped : (s.advance rest).osLockWriteTrapped less = true := by
      simpa [State.osLockWriteTrapped, hless] using htdosa
    rw [change_oslk_of_trapped htrapped]
    rfl
  · have hfree : (s.advance rest).osLockWriteTrapped less = false := by
      rcases hperformed with h | ⟨h₁, h₂⟩
      · simp [State.osLockWriteTrapped, h]
      · simp [State.osLockWriteTrapped, h₁, h₂]
    rw [change_oslk_of_not_trapped hfree]
    rfl

end Sys2Proof.Machine
end

section
/-! Changes of the controls and inputs, alone and together with an event (20_memory.md R42;
40_outcomes_and_halting_allowed.md R62). -/

namespace Sys2Proof.Machine

/-- A well-formed step of the agenda that no held entry keeps back has its own meaning. -/
theorem step_actFreely {s : State} {m : Move} {rest : List Move} (ha : s.agenda = m :: rest)
    (hw : m.wellFormed s.params = true) (hh : s.held = none ∨ m.needsExecution = false) :
    step s = actFreely m (s.advance rest) :=
  (step_agenda ha (hh.imp_right .inr)).trans (act_free hw hh)

/-- What a change does to the inputs of the outcome does not depend on the agenda or step count. -/
@[simp] theorem outcomeInputs_advance_change (s : State) (c : Control) (rest : List Move) :
    ((s.advance rest).change c).outcomeInputs = (s.change c).outcomeInputs := by
  rw [change_advance]
  rfl

@[simp] theorem outcomeInputs_advance (s : State) (rest : List Move) :
    (s.advance rest).outcomeInputs = s.outcomeInputs := rfl

/-! ## A change as a step of its own -/

theorem changeControl_of_inputs_eq {c : Control} {s : State}
    (h : (s.change c).outcomeInputs = s.outcomeInputs) :
    changeControl c s = .next (s.change c) :=
  if_neg fun ⟨_, hne⟩ => hne h

theorem changeControl_of_held_of_inputs_ne {c : Control} {s : State} (hh : s.held.isSome = true)
    (h : (s.change c).outcomeInputs ≠ s.outcomeInputs) :
    changeControl c s = .refused .conditionsChanged :=
  if_pos ⟨hh, h⟩

/-- A change from outside the PE that touches no input is made whether or not an entry is held. -/
theorem step_control_of_inputs_eq {s : State} {c : Control} {rest : List Move}
    (ha : s.agenda = .control c :: rest) (hw : (Move.control c).wellFormed s.params = true)
    (hc : c.bySoftware = false) (h : (s.change c).outcomeInputs = s.outcomeInputs) :
    step s = .next ((s.advance rest).change c) := by
  calc step s = changeControl c (s.advance rest) := step_actFreely ha hw (.inr hc)
    _ = .next ((s.advance rest).change c) := changeControl_of_inputs_eq (by simpa using h)

theorem step_control_refused {s : State} {c : Control} {rest : List Move}
    (ha : s.agenda = .control c :: rest) (hw : (Move.control c).wellFormed s.params = true)
    (hc : c.bySoftware = false) (hh : s.held.isSome = true)
    (h : (s.change c).outcomeInputs ≠ s.outcomeInputs) :
    step s = .refused .conditionsChanged := by
  calc step s = changeControl c (s.advance rest) := step_actFreely ha hw (.inr hc)
    _ = .refused .conditionsChanged :=
      changeControl_of_held_of_inputs_ne (s := s.advance rest) hh (by simpa using h)

/-- `TDOSA` traps the writes of the OS Lock by less privileged software (10_state.md R17). -/
theorem osLockWriteTrapped_iff {s : State} {less : Bool} :
    s.osLockWriteTrapped less = true ↔ less = true ∧ (s.tdosaEl3 = true ∨ s.tdosaHyp = true) := by
  simp [State.osLockWriteTrapped]

/-! ## A change together with an event -/

theorem changeDuringEvent_refused {c : Control} {e : Event} {s : State}
    (he : e.asynchronous = false ∨ s.held.isSome = true)
    (h : (s.change c).outcomeInputs ≠ s.outcomeInputs) :
    changeDuringEvent c e s = .refused .conditionsChanged :=
  if_pos ⟨by simpa using he, h⟩

theorem changeDuringEvent_generate {c : Control} {e : Event} {s : State}
    (h : (e.asynchronous = true ∧ s.held = none) ∨
      (s.change c).outcomeInputs = s.outcomeInputs) :
    changeDuringEvent c e s = generate e (s.change c) := by
  refine if_neg fun ⟨he, hne⟩ => ?_
  rcases h with ⟨ha, hh⟩ | heq
  · simp [ha, hh] at he
  · exact hne heq

theorem step_during_refused {s : State} {c : Control} {e : Event} {rest : List Move}
    (ha : s.agenda = .during c e :: rest) (hw : (Move.during c e).wellFormed s.params = true)
    (hfree : s.held = none ∨ (Move.during c e).needsExecution = false)
    (he : e.asynchronous = false ∨ s.held.isSome = true)
    (h : (s.change c).outcomeInputs ≠ s.outcomeInputs) :
    step s = .refused .conditionsChanged := by
  calc step s = changeDuringEvent c e (s.advance rest) := step_actFreely ha hw hfree
    _ = .refused .conditionsChanged :=
      changeDuringEvent_refused (s := s.advance rest) he (by simpa using h)

theorem step_during_generate {s : State} {c : Control} {e : Event} {rest : List Move}
    (ha : s.agenda = .during c e :: rest) (hw : (Move.during c e).wellFormed s.params = true)
    (hh : s.held = none)
    (h : e.asynchronous = true ∨ (s.change c).outcomeInputs = s.outcomeInputs) :
    step s = generate e ((s.advance rest).change c) := by
  calc step s = changeDuringEvent c e (s.advance rest) := step_actFreely ha hw (.inl hh)
    _ = generate e ((s.advance rest).change c) :=
      changeDuringEvent_generate (h.imp (⟨·, hh⟩) (by simpa using ·))

/-- Settles O40: what the step of each kind of change is, and then the one field each control
names. -/
theorem coincidentChangeRefused : Obligations.CoincidentChangeRefused := by
  refine fun c s rest => ⟨fun e ha hw hh => ⟨fun he hne => ?_, fun hsame => ?_⟩,
    fun hheld hc hne => ⟨fun ha hw => ?_, fun e ha hw he => ?_⟩,
    fun ha hw hmade => ⟨s.advance rest, rfl, ?_⟩⟩
  · exact step_during_refused ha hw (.inl hh) (.inl he) hne
  · exact step_during_generate ha hw hh hsame
  · exact step_control_refused ha hw hc hheld hne
  · have hfree : (Move.during c e).needsExecution = false := by simp [Move.needsExecution, hc, he]
    exact step_during_refused ha hw (.inr hfree) (.inr hheld) hne
  · have hstep : step s = .next ((s.advance rest).change c) := by
      rcases hmade with hh | ⟨hc, heq⟩
      · exact step_control_of_not_held ha hh hw
      · exact step_control_of_inputs_eq ha hw hc heq
    rw [hstep]
    cases c with
    | oslk less v =>
      by_cases htrap : (s.advance rest).osLockWriteTrapped less = true
      · rw [change_oslk_of_trapped htrap]
        exact congrArg _ (if_pos (osLockWriteTrapped_iff.mp htrap)).symm
      · rw [change_oslk_of_not_trapped (Bool.eq_false_of_not_eq_true htrap)]
        exact congrArg _ (if_neg (mt osLockWriteTrapped_iff.mpr htrap)).symm
    | auth x v => cases x <;> rfl
    | _ => rfl

end Sys2Proof.Machine
end

section
/-! Reading an instruction from a word and writing it back undo each other (30_encoding.md R51,
R52): an encoding is a choice of fields, said once in each direction, and no two encodings agree on
the fields that tell them apart. -/

namespace Sys2Proof

/-! ## The fields of an `HLT` word, and the word with those fields -/

theorem encode_hltA64_fields (imm16 : BitVec 16) :
    (encode (.hltA64 imm16)).extractLsb' 21 11 = 0b11010100010#11 ∧
      (encode (.hltA64 imm16)).extractLsb' 5 16 = imm16 ∧
      (encode (.hltA64 imm16)).extractLsb' 0 5 = 0#5 := by
  refine ⟨?_, ?_, ?_⟩ <;> refine extractLsb'_eq_of_bits fun k hk => ?_ <;>
    rw [encode_hltA64_bit] <;> grind

theorem encode_hltA32_fields (cond : BitVec 4) (imm12 : BitVec 12) (imm4 : BitVec 4) :
    (encode (.hltA32 cond imm12 imm4)).extractLsb' 28 4 = cond ∧
      (encode (.hltA32 cond imm12 imm4)).extractLsb' 20 8 = 0b00010000#8 ∧
      (encode (.hltA32 cond imm12 imm4)).extractLsb' 8 12 = imm12 ∧
      (encode (.hltA32 cond imm12 imm4)).extractLsb' 4 4 = 0b0111#4 ∧
      (encode (.hltA32 cond imm12 imm4)).extractLsb' 0 4 = imm4 := by
  refine ⟨?_, ?_, ?_, ?_, ?_⟩ <;> refine extractLsb'_eq_of_bits fun k hk => ?_ <;>
    rw [encode_hltA32_bit] <;> grind

theorem encode_hltT32_fields (imm6 : BitVec 6) :
    (encode (.hltT32 imm6)).extractLsb' 6 26 = 0b1011101010#26 ∧
      (encode (.hltT32 imm6)).extractLsb' 0 6 = imm6 := by
  refine ⟨?_, ?_⟩ <;> refine extractLsb'_eq_of_bits fun k hk => ?_ <;>
    rw [encode_hltT32_bit] <;> grind

theorem encode_hltA64_of_fields {w : Word} (hop : w.extractLsb' 21 11 = 0b11010100010#11)
    (hlow : w.extractLsb' 0 5 = 0#5) : encode (.hltA64 (w.extractLsb' 5 16)) = w := by
  apply BitVec.eq_of_getLsbD_eq
  intro k hk
  rw [encode_hltA64_bit, ← hop, ← hlow]
  grind

theorem encode_hltA32_of_fields {w : Word} (hop : w.extractLsb' 20 8 = 0b00010000#8)
    (hmid : w.extractLsb' 4 4 = 0b0111#4) :
    encode (.hltA32 (w.extractLsb' 28 4) (w.extractLsb' 8 12) (w.extractLsb' 0 4)) = w := by
  apply BitVec.eq_of_getLsbD_eq
  intro k hk
  rw [encode_hltA32_bit, ← hop, ← hmid]
  grind

theorem encode_hltT32_of_fields {w : Word} (hop : w.extractLsb' 6 26 = 0b1011101010#26) :
    encode (.hltT32 (w.extractLsb' 0 6)) = w := by
  apply BitVec.eq_of_getLsbD_eq
  intro k hk
  rw [encode_hltT32_bit, ← hop]
  grind

/-- The word of a row of the table is put together from the event's number and the vector. -/
theorem encode_rowOf_of_fields {w : Word} {e : Event} (hhigh : w.extractLsb' 8 24 = 0#24)
    (he : Event.ofNumber (w.extractLsb' 4 4) = some e) :
    encode (rowOf e (.ofBits (w.extractLsb' 0 4))) = w := by
  rw [encode_of_eventAndConditions (eventAndConditions_rowOf _ _)]
  apply BitVec.eq_of_getLsbD_eq
  intro k hk
  rw [encodeEvent_bit, Event.number_of_ofNumber he, Conditions.bits_ofBits, ← hhigh]
  grind

/-! ## Reading back the word of an instruction

Each test that the decoder makes before the one that takes the word fails at a bit of the word. -/

theorem decode_encode_hltT32 (imm6 : BitVec 6) :
    decode (encode (.hltT32 imm6)) = .ok (.hltT32 imm6) := by
  obtain ⟨hop, himm⟩ := encode_hltT32_fields imm6
  have hrow : (encode (.hltT32 imm6)).extractLsb' 8 24 ≠ 0#24 :=
    extractLsb'_ne_of_bit 7 (by decide) (by simp [encode_hltT32_bit])
  rw [decode, if_neg hrow, if_pos hop, himm]

theorem decode_encode_hltA64 (imm16 : BitVec 16) :
    decode (encode (.hltA64 imm16)) = .ok (.hltA64 imm16) := by
  obtain ⟨hop, himm, hlow⟩ := encode_hltA64_fields imm16
  have hrow : (encode (.hltA64 imm16)).extractLsb' 8 24 ≠ 0#24 :=
    extractLsb'_ne_of_bit 23 (by decide) (by simp [encode_hltA64_bit])
  have hT32 : (encode (.hltA64 imm16)).extractLsb' 6 26 ≠ 0b1011101010#26 :=
    extractLsb'_ne_of_bit 25 (by decide) (by simp [encode_hltA64_bit])
  rw [decode, if_neg hrow, if_neg hT32, if_pos ⟨hop, hlow⟩, himm]

theorem decode_encode_hltA32 (cond : BitVec 4) (imm12 : BitVec 12) (imm4 : BitVec 4) :
    decode (encode (.hltA32 cond imm12 imm4)) = .ok (.hltA32 cond imm12 imm4) := by
  obtain ⟨hcond, hop, himm12, hmid, himm4⟩ := encode_hltA32_fields cond imm12 imm4
  have hrow : (encode (.hltA32 cond imm12 imm4)).extractLsb' 8 24 ≠ 0#24 :=
    extractLsb'_ne_of_bit 16 (by decide) (by simp [encode_hltA32_bit])
  have hT32 : (encode (.hltA32 cond imm12 imm4)).extractLsb' 6 26 ≠ 0b1011101010#26 :=
    extractLsb'_ne_of_bit 18 (by decide) (by simp [encode_hltA32_bit])
  have hA64 : (encode (.hltA32 cond imm12 imm4)).extractLsb' 21 11 ≠ 0b11010100010#11 :=
    extractLsb'_ne_of_bit 5 (by decide) (by rw [encode_hltA32_bit]; simp)
  rw [decode, if_neg hrow, if_neg hT32, if_neg fun h => hA64 h.1, if_pos ⟨hop, hmid⟩,
    hcond, himm12, himm4]

/-- Settles O51: an instruction is a row of the table, whose word is its event's under its
conditions, or one of the three `HLT` encodings. -/
theorem decodeEncodeRoundTrip : Obligations.DecodeEncodeRoundTrip := by
  intro i
  cases h : i.eventAndConditions with
  | some ec =>
    rw [encode_of_eventAndConditions h, decode_encodeEvent, rowOf_of_eventAndConditions h]
  | none =>
    cases i with
    | hltA64 imm16 => exact decode_encode_hltA64 imm16
    | hltA32 cond imm12 imm4 => exact decode_encode_hltA32 cond imm12 imm4
    | hltT32 imm6 => exact decode_encode_hltT32 imm6
    | _ => cases h

/-- Settles O52: each test of the decoder that takes a word fixes the fields that are no operand. -/
theorem encodeDecodeRoundTrip : Obligations.EncodeDecodeRoundTrip := by
  intro w i h
  unfold decode at h
  split_ifs at h with hrow hT32 hA64 hA32
  · split at h
    case h_1 e he => cases h; exact encode_rowOf_of_fields hrow he
    case h_2 => cases h
  · cases h; exact encode_hltT32_of_fields hT32
  · obtain ⟨hop, hlow⟩ := hA64
    cases h; exact encode_hltA64_of_fields hop hlow
  · obtain ⟨hop, hmid⟩ := hA32
    cases h; exact encode_hltA32_of_fields hop hmid

/-- Settles O53: each word is read by computing the decoder on it. -/
theorem sampleWordsDecode : Obligations.SampleWordsDecode := by
  refine ⟨?_, ?_, ?_, ?_, ?_, ?_, ?_, ?_, ?_⟩ <;> decide

end Sys2Proof
end

section
/-! A step that reads a word runs the instruction in it, also one placed by `withFetchWord`
(30_encoding.md R51, R52, R54). -/

namespace Sys2Proof.Machine

/-- Settles O17: the condition field is tested before anything else. -/
theorem hltA32ConditionRefused : Obligations.HltA32ConditionRefused :=
  fun _ _ _ _ hcond => if_neg hcond

/-! ## The step of a word -/

theorem runWord_of_decode {w : Word} {i : Instr} (h : decode w = .ok i) (s : State) :
    runWord w s = exec i s := by
  rw [runWord, h]

theorem runWord_of_undecoded {w : Word} {why : DecodeError} (h : decode w = .error why)
    (s : State) : runWord w s = .refused (.undecoded why) := by
  rw [runWord, h]

theorem step_word_of_decode {s : State} {w : Word} {i : Instr} {rest : List Move}
    (ha : s.agenda = .word w :: rest) (hh : s.held = none) (h : decode w = .ok i) :
    step s = exec i (s.advance rest) :=
  (step_actFreely ha rfl (.inl hh)).trans (runWord_of_decode h _)

/-- Settles O49: the step's own meaning is `runWord` or `generate`, and the conditions an event
meets are those before the step is taken off and counted. -/
theorem stepRunsTheDecodedInstruction : Obligations.StepRunsTheDecodedInstruction := by
  refine fun s rest hh => ⟨fun w i ha h => step_word_of_decode ha hh h, fun w why ha h => ?_,
    fun e ha => step_actFreely ha rfl (.inl hh)⟩
  exact (step_actFreely ha rfl (.inl hh)).trans (runWord_of_undecoded h _)

/-! ## Placing a word -/

theorem decodeTableWord_eq_some {nbits w : Nat} {i : Instr} (h : decodeTableWord nbits w = some i) :
    ∃ x, tableWord nbits w = some x ∧ decode x = .ok i := by
  unfold decodeTableWord at h
  split at h
  · cases h
  next x hx =>
    split at h
    next j hj => cases h; exact ⟨x, hx, hj⟩
    · cases h

theorem withFetchWord_of_tableWord {nbits w : Nat} {x : Word} (h : tableWord nbits w = some x)
    (s : State) : s.withFetchWord nbits w = s.withWord x := by
  rw [State.withFetchWord, h]

/-- The word at the head of the agenda, with no held entry before it. -/
def State.withNextWord (s : State) (x : Word) : State :=
  { s with agenda := .word x :: s.agenda, held := none }

theorem withWord_of_hlt {x : Word} {i : Instr} (h : decode x = .ok i)
    (hi : i.eventAndConditions = none) (s : State) : s.withWord x = s.withNextWord x := by
  simp only [State.withWord, h, hi]
  rfl

theorem withWord_of_row {x : Word} {i : Instr} {e : Event} {c : Conditions} (h : decode x = .ok i)
    (hi : i.eventAndConditions = some (e, c)) (s : State) :
    s.withWord x = (s.withNextWord x).withConditions c := by
  simp only [State.withWord, h, hi]
  rfl

/-- An authentication input is written in the one field of its Security state. -/
theorem setAuth_eq (s : State) (v : Bool) (x : SecurityState) :
    s.setAuth v x = { s with
      authNs := if x = .nonSecure then v else s.authNs
      authS  := if x = .secure then v else s.authS
      authRl := if x = .realm then v else s.authRl
      authRt := if x = .root then v else s.authRt } := by
  cases x <;> rfl

@[simp] theorem withConditions_agenda (s : State) (c : Conditions) :
    (s.withConditions c).agenda = s.agenda := by
  rw [State.withConditions, setAuth_eq]

@[simp] theorem withConditions_held (s : State) (c : Conditions) :
    (s.withConditions c).held = s.held := by
  rw [State.withConditions, setAuth_eq]

@[simp] theorem authenticationAllows_withConditions (s : State) (c : Conditions) :
    (s.withConditions c).authenticationAllows = c.auth := by
  simp only [State.withConditions]
  cases s.security <;> simp [State.authenticationAllows, State.setAuth, State.authOf]

/-- The OS Double Lock's feature is there where DLK is to be TRUE. -/
@[simp] theorem doubleLockStatus_withConditions (s : State) (c : Conditions) :
    (s.withConditions c).doubleLockStatus = c.dlk := by
  cases hd : c.dlk <;> simp [State.doubleLockStatus, State.withConditions, setAuth_eq, hd]

/-- Setting the conditions sets them: each is read from the field it is written in. -/
@[simp] theorem conditions_withConditions (s : State) (c : Conditions) :
    (s.withConditions c).conditions = c := by
  rw [State.conditions, authenticationAllows_withConditions, doubleLockStatus_withConditions]
  simp [State.withConditions, setAuth_eq]

@[simp] theorem conditions_advance (s : State) (rest : List Move) :
    (s.advance rest).conditions = s.conditions := rfl

/-- Settles O50: the placed word is first on the agenda with no entry held, so that its instruction
runs, and on the state with the word taken off again. -/
theorem placedWordRuns : Obligations.PlacedWordRuns := by
  intro s nbits w i h
  obtain ⟨x, hx, hd⟩ := decodeTableWord_eq_some h
  rw [withFetchWord_of_tableWord hx]
  refine ⟨fun hi => ?_, fun e c hi =>
    ⟨((s.withNextWord x).withConditions c).advance s.agenda, ?_, ?_, ?_⟩⟩
  · rw [withWord_of_hlt hd hi]
    exact step_word_of_decode rfl rfl hd
  · simp only [State.withConditions, setAuth_eq]
    rfl
  · rw [conditions_advance, conditions_withConditions]
  · rw [withWord_of_row hd hi]
    exact step_word_of_decode (withConditions_agenda _ c) (withConditions_held _ c) hd

end Sys2Proof.Machine
end

section
/-! Where a row of Table H2-1 runs and where it is refused (30_encoding.md R51;
40_outcomes_and_halting_allowed.md R62; 45_summary_table.md R136): the rows as `exec` runs them are
held to the masks and matches of the table, and the columns a row leaves at `X` are not read. -/

namespace Sys2Proof

/-! ## The table's data and the row that is run -/

theorem OtherSoftware.event_group (x : OtherSoftware) : x.event.group = .otherSoftware := by
  cases x <;> rfl

theorem BreakOrWatch.event_group (x : BreakOrWatch) : x.event.group = .breakOrWatch := by
  cases x <;> rfl

theorem OtherHalting.event_group (x : OtherHalting) : x.event.group = .otherHalting := by
  cases x <;> rfl

/-- The one row of the table that takes an event under a condition vector is the row selected for
them (45_summary_table.md R158). -/
theorem tableRowNumber_rowOf_of_takes (e : Event) (c : Conditions) :
    ∀ r ∈ tableRows, r.takes e c = true → (rowOf e c).tableRowNumber = some r.number := by
  obtain ⟨a, d, o, h⟩ := c
  revert a d o h
  cases e with
  | exceptionCatch p => cases p <;> decide
  | breakpoint t => cases t <;> decide
  | vectorCatch f => cases f <;> decide
  | _ => decide

namespace Machine

/-- Row 1 has no condition of its own: every column is `X`. -/
theorem underConditions_any (s : State) (r : Host.Outcome State Fault Refusal) :
    s.underConditions 0 0 r = r :=
  underConditions_of_selects (by simp [Conditions.selects]) r

theorem otherHalting_of_synchronous {x : OtherHalting} (hx : x.event.asynchronous = false)
    (m p : BitVec 4) (o : Host.Outcome State Fault Refusal) (s : State) :
    otherHalting x m p o s = s.underConditions m p o := by
  rcases otherHalting_cases x m p o s with ⟨ha, -⟩ | ⟨-, he⟩
  · simp [hx] at ha
  · exact he

/-- A row for a synchronous event runs under the mask and the match that the table gives it. -/
theorem exec_eq_underConditions {i : Instr} {e : Event} {c : Conditions}
    (h : i.eventAndConditions = some (e, c)) (hsync : e.asynchronous = false) (s : State) :
    ∃ r ∈ tableRows, r.group = e.group ∧ i.tableRowNumber = some r.number ∧
      ∃ result, exec i s = s.underConditions r.mask r.pattern result := by
  cases i with
  | otherSw x =>
    cases h
    exact ⟨tableRows[0], List.getElem_mem _, x.event_group.symm, rfl, _,
      (underConditions_any s _).symm⟩
  | bwDlk x => cases h; exact ⟨tableRows[1], List.getElem_mem _, x.event_group.symm, rfl, _, rfl⟩
  | bwOslk x => cases h; exact ⟨tableRows[2], List.getElem_mem _, x.event_group.symm, rfl, _, rfl⟩
  | bwNoauth x => cases h; exact ⟨tableRows[3], List.getElem_mem _, x.event_group.symm, rfl, _, rfl⟩
  | bwHde0 x => cases h; exact ⟨tableRows[4], List.getElem_mem _, x.event_group.symm, rfl, _, rfl⟩
  | bwHalt x => cases h; exact ⟨tableRows[5], List.getElem_mem _, x.event_group.symm, rfl, _, rfl⟩
  | hltNoauth => cases h; exact ⟨tableRows[6], List.getElem_mem _, rfl, rfl, _, rfl⟩
  | hltDlk => cases h; exact ⟨tableRows[7], List.getElem_mem _, rfl, rfl, _, rfl⟩
  | hltHde0 => cases h; exact ⟨tableRows[8], List.getElem_mem _, rfl, rfl, _, rfl⟩
  | hltHalt => cases h; exact ⟨tableRows[9], List.getElem_mem _, rfl, rfl, _, rfl⟩
  | ecNoauth => cases h; exact ⟨tableRows[10], List.getElem_mem _, rfl, rfl, _, rfl⟩
  | ecDlk => cases h; exact ⟨tableRows[11], List.getElem_mem _, rfl, rfl, _, rfl⟩
  | ecHalt => cases h; exact ⟨tableRows[12], List.getElem_mem _, rfl, rfl, _, rfl⟩
  | saNoauth => cases h; exact ⟨tableRows[13], List.getElem_mem _, rfl, rfl, _, rfl⟩
  | saDlk => cases h; exact ⟨tableRows[14], List.getElem_mem _, rfl, rfl, _, rfl⟩
  | saOslk => cases h; exact ⟨tableRows[15], List.getElem_mem _, rfl, rfl, _, rfl⟩
  | saHalt => cases h; exact ⟨tableRows[16], List.getElem_mem _, rfl, rfl, _, rfl⟩
  | ohNoauth x =>
    cases h
    exact ⟨tableRows[17], List.getElem_mem _, x.event_group.symm, rfl, _,
      otherHalting_of_synchronous hsync _ _ _ s⟩
  | ohDlk x =>
    cases h
    exact ⟨tableRows[18], List.getElem_mem _, x.event_group.symm, rfl, _,
      otherHalting_of_synchronous hsync _ _ _ s⟩
  | ohHalt x =>
    cases h
    exact ⟨tableRows[19], List.getElem_mem _, x.event_group.symm, rfl, _,
      otherHalting_of_synchronous hsync _ _ _ s⟩
  | hltA64 | hltA32 | hltT32 => cases h

/-- A row for an asynchronous event reads no conditions (41_halting_debug_events.md R86, R88). -/
theorem exec_rowOf_of_asynchronous {e : Event} (ha : e.asynchronous = true) (c c' : Conditions)
    (s : State) : exec (rowOf e c) s = exec (rowOf e c') s := by
  have unread {x : OtherHalting} (hx : x.event.asynchronous = true) (v : Conditions) :
      exec (rowOtherHalting x v) s = .next (s.pendEvent x.pendable) := by
    fun_cases rowOtherHalting x v <;> cases x <;> cases hx <;> rfl
  cases e with
  | externalDebugRequest | osUnlockCatch => exact (unread rfl c).trans (unread rfl c').symm
  | _ => cases ha

/-! ## The columns a row leaves at `X` -/

/-- The rows of a group of the table do not read their `X` columns: two condition vectors that
select the same row of the group select the same meaning (45_summary_table.md R136). -/
def ColumnsUnread (row : Conditions → Instr) : Prop :=
  ∀ {c c' : Conditions}, (row c).tableRowNumber = (row c').tableRowNumber →
    ∀ s : State, exec (row c) s = exec (row c') s

theorem columnsUnread_otherSoftware (x : OtherSoftware) : ColumnsUnread (rowOtherSoftware x) :=
  fun _ _ => rfl

theorem columnsUnread_breakOrWatch (x : BreakOrWatch) : ColumnsUnread (rowBreakOrWatch x) := by
  intro c c' h s
  fun_cases rowBreakOrWatch x c <;> fun_cases rowBreakOrWatch x c' <;> cases h <;> rfl

theorem columnsUnread_haltInstruction : ColumnsUnread rowHaltInstruction := by
  intro c c' h s
  fun_cases rowHaltInstruction c <;> fun_cases rowHaltInstruction c' <;> cases h <;> rfl

theorem columnsUnread_exceptionCatch (p : CatchPriority) : ColumnsUnread (rowExceptionCatch p) := by
  intro c c' h s
  fun_cases rowExceptionCatch p c <;> fun_cases rowExceptionCatch p c' <;> cases h <;> rfl

theorem columnsUnread_softwareAccess : ColumnsUnread rowSoftwareAccess := by
  intro c c' h s
  fun_cases rowSoftwareAccess c <;> fun_cases rowSoftwareAccess c' <;> cases h <;> rfl

theorem columnsUnread_otherHalting (x : OtherHalting) : ColumnsUnread (rowOtherHalting x) := by
  intro c c' h s
  fun_cases rowOtherHalting x c <;> fun_cases rowOtherHalting x c' <;> cases h <;> rfl

theorem columnsUnread_rowOf (e : Event) : ColumnsUnread (rowOf e) := by
  cases e with
  | haltInstruction => exact columnsUnread_haltInstruction
  | softwareAccess => exact columnsUnread_softwareAccess
  | exceptionCatch p => exact columnsUnread_exceptionCatch p
  | haltingStep | externalDebugRequest | resetCatch | osUnlockCatch =>
    exact columnsUnread_otherHalting _
  | breakpoint | watchpoint => exact columnsUnread_breakOrWatch _
  | breakpointInstruction | softwareStep | vectorCatch => exact columnsUnread_otherSoftware _

/-! ## A row in a state -/

/-- A row meets the state's conditions as the event generated there does, where they select it. -/
theorem exec_eq_generate_of_same_row {i : Instr} {e : Event} {c : Conditions} {s : State}
    (h : i.eventAndConditions = some (e, c))
    (hrow : i.tableRowNumber = (rowOf e s.conditions).tableRowNumber) :
    exec i s = generate e s := by
  obtain rfl := rowOf_of_eventAndConditions h
  exact columnsUnread_rowOf e hrow s

theorem exec_eq_generate_of_asynchronous {i : Instr} {e : Event} {c : Conditions} {s : State}
    (h : i.eventAndConditions = some (e, c)) (ha : e.asynchronous = true) :
    exec i s = generate e s := by
  obtain rfl := rowOf_of_eventAndConditions h
  exact exec_rowOf_of_asynchronous ha c s.conditions s

/-- Conditions that select another row do not meet the row's own mask and match. -/
theorem exec_refused_of_other_row {i : Instr} {e : Event} {c : Conditions} {s : State}
    (h : i.eventAndConditions = some (e, c)) (hsync : e.asynchronous = false)
    (hrow : i.tableRowNumber ≠ (rowOf e s.conditions).tableRowNumber) :
    exec i s = .refused .conditionsChanged := by
  obtain ⟨r, hr, hgroup, hnumber, result, hexec⟩ := exec_eq_underConditions h hsync s
  rw [hexec]
  refine underConditions_of_not_selects (Bool.eq_false_of_not_eq_true fun hsel => hrow ?_) result
  have htakes : r.takes e s.conditions = true := by simp [TableRow.takes, hgroup, hsel]
  exact hnumber.trans (tableRowNumber_rowOf_of_takes e s.conditions r hr htakes).symm

/-- Settles O39: conditions that select the row again give its meaning, and others fail its mask and
match; an asynchronous event reads none. -/
theorem rowUnderOtherConditionsRefused : Obligations.RowUnderOtherConditionsRefused := by
  refine fun i e c s h => ⟨?_, fun hrow hsync => exec_refused_of_other_row h hsync hrow⟩
  rintro (hrow | ha)
  · exact exec_eq_generate_of_same_row h hrow
  · exact exec_eq_generate_of_asynchronous h ha

end Machine

end Sys2Proof
end

section
/-! Which states halting is allowed in, and which steps enter Debug state
(40_outcomes_and_halting_allowed.md R64 to R68). -/

namespace Sys2Proof.Machine

/-- Without a locked OS Double Lock, Non-debug state leaves the decision to the authentication input
(R66). -/
theorem haltingAllowed_eq_authenticationAllows {s : State} (hn : s.halted = false)
    (hd : s.doubleLockStatus = false) : s.haltingAllowed = s.authenticationAllows := by
  simp [haltingAllowed_eq, hn, hd]

/-- Settles O27: each clause is a factor of `HaltingAllowed()`. -/
theorem haltingAllowedByItsClauses : Obligations.HaltingAllowedByItsClauses := by
  refine fun s => ⟨fun hh => ?_, fun hf hl => ?_, fun hn hunlocked => ?_⟩
  · simp [haltingAllowed_eq, hh]
  · simp [haltingAllowed_eq, State.doubleLockStatus, hf, hl]
  · have hd : s.doubleLockStatus = false := Bool.and_eq_false_iff.2 hunlocked
    rw [haltingAllowed_eq_authenticationAllows hn hd, State.authenticationAllows]
    refine ⟨?_, ?_, ?_, ?_⟩ <;> intro hs <;> rw [hs] <;> rfl

theorem not_entersDebugState_of_halted_eq {s t : State} (h : t.halted = s.halted) :
    ¬ EntersDebugState s t := fun ⟨hs, ht⟩ => Bool.false_ne_true (hs.symm.trans (h.symm.trans ht))

/-- A step that changes no control enters Debug state only where halting is allowed. -/
theorem Effect.haltingAllowed {s t : State} (h : Effect s t) (he : EntersDebugState s t) :
    s.haltingAllowed = true := by
  cases h with
  | enter u c hk hh hc => exact hc.1
  | hold u c hk hh => exact absurd he (not_entersDebugState_of_halted_eq hh)
  | stay _ hk hh => exact absurd he (not_entersDebugState_of_halted_eq hh)

/-- An asynchronous event is pended, and enters Debug state in a later step only (R62). -/
theorem halted_of_generate_asynchronous {e : Event} {s t : State} (ha : e.asynchronous = true)
    (h : generate e s = .next t) : t.halted = s.halted := by
  obtain ⟨p, -, -, hp⟩ := generate_asynchronous ha s
  cases hp.symm.trans h
  rfl

@[simp] theorem change_halted (s : State) (c : Control) : (s.change c).halted = s.halted := by
  obtain ⟨hhalted, -⟩ := change_frame s c
  exact hhalted

/-- An event in the step of a change enters Debug state only where halting was allowed before the
change: a synchronous event's step leaves what halting allowed reads as it was. -/
theorem haltingAllowed_of_change_generate {s t : State} {c : Control} {e : Event}
    (ho : (s.change c).outcomeInputs = s.outcomeInputs ∨ e.asynchronous = true)
    (h : generate e (s.change c) = .next t) (he : EntersDebugState s t) :
    s.haltingAllowed = true := by
  rcases ho with ho | ha
  · have heffect : Effect (s.change c) t := .of_row (exec_next_effect h)
    have henters : EntersDebugState (s.change c) t := by rwa [EntersDebugState, change_halted]
    exact (haltingAllowed_congr ho).symm.trans (heffect.haltingAllowed henters)
  · have hkept := (halted_of_generate_asynchronous ha h).trans (change_halted s c)
    exact absurd he (not_entersDebugState_of_halted_eq hkept)

/-- Each effect of a step other than a reset enters Debug state only where halting is allowed: of a
held entry the invariant says so, of the others their own guard. -/
theorem StepEffect.haltingAllowed {s t : State} (h : StepEffect s t) (hs : s.Inv)
    (hreset : ∀ i b rest, s.agenda ≠ .reset i b :: rest) (he : EntersDebugState s t) :
    s.haltingAllowed = true := by
  cases h with
  | taken c hc _ =>
    obtain ⟨-, -, -, -, -, hheld⟩ := hs
    exact (haltingAllowed_of_entryConditionOf (hheld c hc)).1
  | plain _ heffect => exact heffect.haltingAllowed he
  | reset i b rest _ ha => exact absurd ha (hreset i b rest)
  | imprecise rest _ hguard =>
    obtain ⟨-, -, -, hallowed⟩ := haltingAllowed_of_impreciseEntryEnabled hguard
    exact hallowed
  | control c rest =>
    exact absurd he (not_entersDebugState_of_halted_eq (change_halted (s.advance rest) c))
  | during c e rest _ _ _ ho _ hg =>
    exact haltingAllowed_of_change_generate (s := s.advance rest) (ho.imp_right And.left) hg he
  | writeItr | runItr | executes | request =>
    exact absurd he (not_entersDebugState_of_halted_eq rfl)

/-- Settles O57: read off `step_effect`. -/
theorem noEntryAgainstHaltingAllowed : Obligations.NoEntryAgainstHaltingAllowed :=
  fun _ _ hs h he hreset => (step_effect h).haltingAllowed hs hreset he

end Sys2Proof.Machine
end

section
/-! The outcomes of a debug event (40_outcomes_and_halting_allowed.md R60): a row of Table H2-1 does
one of five things, each bound to the row's own event. -/

namespace Sys2Proof

theorem BreakOrWatch.exists_exceptionKind (x : BreakOrWatch) :
    ∃ k, x.event.exceptionKind = some k := by
  cases x <;> exact ⟨_, rfl⟩

theorem OtherSoftware.exists_exceptionKind (x : OtherSoftware) :
    ∃ k, x.event.exceptionKind = some k := by
  cases x <;> exact ⟨_, rfl⟩

namespace Machine

/-- The effects of `RowEffect`, each with what it has to do with the event of the row. -/
inductive EventEffect (e : Event) (s : State) : State → Prop where
  | entered : EventEffect e s (s.enterOrHold e.type)
  | pended (p : Pendable) (hp : e.type.pendable = some p) : EventEffect e s (s.pendEvent p)
  | handed (h : ∃ k, e.exceptionKind = some k) : EventEffect e s (s.handToExceptionModel e)
  | ignored : EventEffect e s s.ignoreEvent
  | undefined (he : e = .haltInstruction) : EventEffect e s s.raiseUndefined

section
variable {e : Event} {s t : State}

/-- A row under its conditions has the effect of its result. -/
theorem EventEffect.of_underConditions {m p : BitVec 4} {u : State}
    (h : s.underConditions m p (.next u) = .next t) (hu : EventEffect e s u) :
    EventEffect e s t := by
  cases (underConditions_next h).2
  exact hu

/-- A row that Debug state turns into another has one of the two rows' effects. -/
theorem EventEffect.of_unlessHalted {n d : Host.Outcome State Fault Refusal}
    (h : s.unlessHalted n d = .next t) (hn : n = .next t → EventEffect e s t)
    (hd : d = .next t → EventEffect e s t) : EventEffect e s t := by
  rcases unlessHalted_cases s n d with ⟨-, he⟩ | ⟨-, he⟩
  · exact hn (he.symm.trans h)
  · exact hd (he.symm.trans h)

theorem EventEffect.of_exceptionCatchNotHalting (p : CatchPriority) :
    EventEffect (.exceptionCatch p) s s.exceptionCatchNotHalting := by
  rcases exceptionCatchNotHalting_cases s with ⟨-, -, he⟩ | ⟨-, he⟩ <;> rw [he]
  · exact .pended _ rfl
  · exact .ignored

/-- A breakpoint of the reserved type is refused; every other one, and a watchpoint, enters. -/
theorem EventEffect.of_enterOnBreakOrWatch {x : BreakOrWatch}
    (h : enterOnBreakOrWatch x s = .next t) : EventEffect x.event s t := by
  unfold enterOnBreakOrWatch at h
  split at h <;> cases h <;> exact .entered

theorem EventEffect.of_pendable (x : OtherHalting) :
    EventEffect x.event s (s.pendEvent x.pendable) :=
  .pended _ x.event_pendable

/-- A row of the group "Other Halting" pends an asynchronous event whatever its result is. -/
theorem EventEffect.of_otherHalting {x : OtherHalting} {m p : BitVec 4}
    {r : Host.Outcome State Fault Refusal} (h : otherHalting x m p r s = .next t)
    (hr : r = .next t → EventEffect x.event s t) : EventEffect x.event s t := by
  rcases otherHalting_cases x m p r s with ⟨-, he⟩ | ⟨-, he⟩
  · cases he.symm.trans h
    exact .of_pendable x
  · exact hr (underConditions_next (he.symm.trans h)).2

/-- A row of Table H2-1 that answers a next state has one of the five effects for its event. -/
theorem EventEffect.of_exec {i : Instr} {c : Conditions}
    (hi : i.eventAndConditions = some (e, c)) (h : exec i s = .next t) : EventEffect e s t := by
  cases i with
  | otherSw x => cases hi; cases h; exact .handed x.exists_exceptionKind
  | bwDlk | bwOslk | saNoauth | saDlk | saOslk => cases hi; exact .of_underConditions h .ignored
  | bwNoauth x | bwHde0 x =>
    cases hi
    exact .of_underConditions h (.handed x.exists_exceptionKind)
  | bwHalt x =>
    cases hi
    refine .of_unlessHalted (underConditions_next h).2 .of_enterOnBreakOrWatch ?_
    rintro ⟨⟩
    exact .handed x.exists_exceptionKind
  | hltNoauth | hltDlk | hltHde0 => cases hi; exact .of_underConditions h (.undefined rfl)
  | hltHalt =>
    cases hi
    refine .of_unlessHalted (underConditions_next h).2 ?_ ?_ <;> rintro ⟨⟩
    · exact .entered
    · exact .undefined rfl
  | ecNoauth p => cases hi; exact .of_underConditions h (.of_exceptionCatchNotHalting p)
  | ecDlk p =>
    cases hi
    refine .of_unlessHalted (underConditions_next h).2 ?_ ?_ <;> rintro ⟨⟩
    · exact .ignored
    · exact .of_exceptionCatchNotHalting p
  | ecHalt p =>
    cases hi
    refine .of_unlessHalted (underConditions_next h).2 ?_ ?_ <;> rintro ⟨⟩
    · exact .entered
    · exact .of_exceptionCatchNotHalting p
  | saHalt =>
    cases hi
    refine .of_unlessHalted (underConditions_next h).2 ?_ ?_ <;> rintro ⟨⟩
    · exact .entered
    · exact .ignored
  | ohNoauth x | ohDlk x =>
    cases hi
    refine .of_otherHalting h ?_
    rintro ⟨⟩
    exact .of_pendable x
  | ohHalt x =>
    cases hi
    refine .of_otherHalting h fun hr => .of_unlessHalted hr ?_ ?_ <;> rintro ⟨⟩
    · exact .entered
    · exact .of_pendable x
  | hltA64 | hltA32 | hltT32 => cases hi

/-- The generation of an event runs a row for that event. -/
theorem EventEffect.of_generate (h : generate e s = .next t) : EventEffect e s t :=
  .of_exec (eventAndConditions_rowOf e s.conditions) h

end

/-- Settles O20: an entry is made or held, and the Exception model generates its exception or
ignores the event; the other effects are outcomes as they stand. -/
theorem debugEventHasExactlyOneOutcome : Obligations.DebugEventHasExactlyOneOutcome := by
  intro e s t h
  cases EventEffect.of_generate h with
  | entered =>
    rcases enterOrHold_cases s e.type with ⟨-, he⟩ | ⟨-, he⟩ <;> rw [he]
    · exact ⟨_, rfl, .inl rfl⟩
    · exact ⟨_, rfl, .inr rfl⟩
  | pended p hp => exact ⟨_, rfl, p, hp, rfl⟩
  | handed hk =>
    obtain ⟨k, hk⟩ := hk
    rcases handToExceptionModel_cases s e with ⟨-, he⟩ | ⟨-, he⟩ <;> rw [he]
    · exact ⟨_, rfl, k, hk, by rw [hk]; rfl⟩
    · exact ⟨_, rfl, rfl⟩
  | ignored => exact ⟨_, rfl, rfl⟩
  | undefined he => exact ⟨_, rfl, he, rfl⟩

end Machine

end Sys2Proof
end

section
/-! What an event that meets its entry condition does, and the halt instruction by its row and by its
three encodings (41_halting_debug_events.md R71 to R74, R82; 45_summary_table.md R143 to R146,
R159). -/

namespace Sys2Proof.Machine

/-! ## Generation on the entry condition -/

/-- Where halting is allowed, Authentication passes and DLK is FALSE. -/
theorem conditions_of_haltingAllowed {s : State} (h : s.haltingAllowed = true) :
    s.conditions = ⟨true, false, s.oslk, s.hde⟩ := by
  obtain ⟨-, hd, ha⟩ : s.halted = false ∧ s.doubleLockStatus = false ∧
      s.authenticationAllows = true := by simpa [haltingAllowed_eq] using h
  simp [State.conditions, hd, ha]

/-- A row that halts the PE, in Non-debug state and under its conditions. -/
theorem underConditions_unlessHalted_of_selects {s : State} {m p : BitVec 4}
    (hsel : s.conditions.selects m p = true) (hn : s.halted = false)
    (n d : Host.Outcome State Fault Refusal) :
    s.underConditions m p (s.unlessHalted n d) = n :=
  (underConditions_of_selects hsel _).trans (unlessHalted_nonDebug hn n d)

/-- A breakpoint or watchpoint that halts the PE and is not of the reserved type. -/
theorem enterOnBreakOrWatch_of_not_reserved {x : BreakOrWatch}
    (h : x.event ≠ .breakpoint .addressMismatch) (s : State) :
    enterOnBreakOrWatch x s = .next (s.enterOrHold x.event.type) := by
  cases x with
  | breakpoint t =>
    cases t with
    | addressMismatch => exact absurd rfl h
    | other => rfl
  | watchpoint => rfl

/-- A breakpoint or watchpoint on its entry condition enters Debug state, or is held for the
entry. -/
theorem generate_breakOrWatch_of_entry {x : BreakOrWatch} {s : State}
    (hentry : s.haltOnBreakpointOrWatchpoint = true)
    (hreserved : x.event ≠ .breakpoint .addressMismatch) :
    generate x.event s = .next (s.enterOrHold x.event.type) := by
  obtain ⟨⟨ha, hh⟩, ho⟩ : (s.haltingAllowed = true ∧ s.hde = true) ∧ s.oslk = false := by
    simpa [State.haltOnBreakpointOrWatchpoint] using hentry
  have hn : s.halted = false := not_halted_of_haltingAllowed ha
  have hc : s.conditions = ⟨true, false, false, true⟩ := by
    rw [conditions_of_haltingAllowed ha, ho, hh]
  have hrow : rowOf x.event s.conditions = .bwHalt x := by
    rw [hc]
    cases x <;> rfl
  rw [generate, hrow]
  exact (underConditions_unlessHalted_of_selects (by simp [hc]) hn _ _).trans
    (enterOnBreakOrWatch_of_not_reserved hreserved s)

/-- A synchronous event on its entry condition enters Debug state, or is held for the entry; the
reserved breakpoint type is refused instead (42_breakpoint_watchpoint.md R91). -/
theorem generate_of_entryConditionOf {e : Event} {s : State} (hsync : e.synchronous = true)
    (hentry : s.entryConditionOf e.type = true) (hreserved : e ≠ .breakpoint .addressMismatch) :
    generate e s = .next (s.enterOrHold e.type) := by
  obtain ⟨ha, -⟩ := haltingAllowed_of_entryConditionOf hentry
  have hn : s.halted = false := not_halted_of_haltingAllowed ha
  have hc : s.conditions = ⟨true, false, s.oslk, s.hde⟩ := conditions_of_haltingAllowed ha
  cases e with
  | exceptionCatch | haltingStep | resetCatch =>
    rw [generate, hc]
    exact underConditions_unlessHalted_of_selects (by simp [hc]) hn _ _
  | haltInstruction =>
    obtain ⟨-, hh⟩ : s.haltingAllowed = true ∧ s.hde = true := by
      simpa [State.entryConditionOf, Event.type] using hentry
    rw [generate, hc, hh]
    exact underConditions_unlessHalted_of_selects (by simp [hc, hh]) hn _ _
  | softwareAccess =>
    obtain ⟨-, ho⟩ : s.haltingAllowed = true ∧ s.oslk = false := by
      simpa [State.entryConditionOf, Event.type] using hentry
    rw [generate, hc, ho]
    exact underConditions_unlessHalted_of_selects (by simp [hc, ho]) hn _ _
  | breakpoint t => exact generate_breakOrWatch_of_entry (x := .breakpoint t) hentry hreserved
  | watchpoint => exact generate_breakOrWatch_of_entry (x := .watchpoint) hentry hreserved
  | externalDebugRequest | osUnlockCatch | breakpointInstruction | softwareStep | vectorCatch =>
    cases hsync

/-! ## The halt instruction -/

/-- The halt instruction enters where halting is allowed and `HDE` is 1. -/
theorem haltInstruction_of_entry {s : State} (ha : s.haltingAllowed = true) (hh : s.hde = true) :
    s.haltInstruction = s.enterOrHold .haltInstruction :=
  if_pos (by simp [ha, hh])

/-- Everywhere else the halt instruction is UNDEFINED. -/
theorem haltInstruction_of_not_entry {s : State} (h : s.haltingAllowed = false ∨ s.hde = false) :
    s.haltInstruction = s.raiseUndefined :=
  if_neg (by rcases h with h | h <;> simp [h])

/-- A halt instruction that may not halt the PE is UNDEFINED by its row, in Debug state too. -/
theorem generate_haltInstruction_of_not_entry {s : State}
    (h : s.haltingAllowed = false ∨ s.hde = false) :
    generate .haltInstruction s = .next s.raiseUndefined := by
  unfold generate
  match hc : s.conditions with
  | ⟨false, _, _, _⟩ | ⟨true, true, _, _⟩ | ⟨true, false, _, false⟩ =>
    exact underConditions_of_selects (by simp [hc]) _
  | ⟨true, false, o, true⟩ =>
    have hh : s.hde = true := congrArg Conditions.hde hc
    have hdebug : s.halted = true := by
      simpa [haltingAllowed_eq_conditions, hc, hh] using h
    exact (underConditions_of_selects (by simp [hc]) _).trans (unlessHalted_debug hdebug _ _)

/-- The row selected for the halt instruction does what the pseudocode of R82 says. -/
theorem generate_haltInstruction (s : State) :
    generate .haltInstruction s = .next s.haltInstruction := by
  rcases haltInstruction_cases s with ⟨ha, hh, he⟩ | ⟨hno, he⟩ <;> rw [he]
  · exact generate_of_entryConditionOf rfl (by simp [State.entryConditionOf, Event.type, ha, hh])
      nofun
  · exact generate_haltInstruction_of_not_entry hno

/-- A well-formed encoding of `HLT` is the halt instruction, whatever its immediate. -/
theorem exec_of_wellFormed_hlt {i : Instr} (hw : i.wellFormed = true)
    (hi : i.eventAndConditions = none) (s : State) : exec i s = .next s.haltInstruction := by
  cases i with
  | hltA64 | hltT32 => rfl
  | hltA32 => exact if_pos (eq_of_beq hw)
  | _ => cases hi

/-- Settles O16: both are the halt instruction of R82. -/
theorem hltEncodingsAgreeWithTheTable : Obligations.HltEncodingsAgreeWithTheTable :=
  fun _ s hw hi => (exec_of_wellFormed_hlt hw hi s).trans (generate_haltInstruction s).symm

/-- Settles O15: each of the three encodings is the halt instruction of R82, which enters or is
UNDEFINED by its condition; its type has no entry in `Pending` that the entry could erase. -/
theorem hltEncodingsHaltOrAreUndefined : Obligations.HltEncodingsHaltOrAreUndefined := by
  intro i s hi
  have hexec : exec i s = .next s.haltInstruction := by
    rcases hi with ⟨_, rfl⟩ | ⟨_, _, rfl⟩ | ⟨_, rfl⟩ <;> exact exec_of_wellFormed_hlt rfl rfl s
  rw [hexec]
  refine ⟨fun ha hh hp => ?_, fun hno => ?_⟩
  · rw [haltInstruction_of_entry ha hh, enterOrHold_precise hp]
    rfl
  · rw [haltInstruction_of_not_entry hno]
    rfl

end Sys2Proof.Machine
end

section
/-! The Halting debug events and the debug exceptions are apart, and of the Halting debug events only
the halt instruction reads `HDE` (41_halting_debug_events.md R72 to R75, R80;
43_other_debug_exceptions.md R100). -/

namespace Sys2Proof

/-- A Halting debug event has no debug exception of its own (R80). -/
theorem Event.exceptionKind_of_halting {e : Event} (h : e.halting = true) :
    e.exceptionKind = none := by
  cases e with
  | breakpoint | watchpoint | breakpointInstruction | softwareStep | vectorCatch => cases h
  | _ => rfl

/-- A Halting debug event is synchronous or asynchronous (60_exceptions.md R170). -/
theorem Event.synchronous_of_halting {e : Event} (h : e.halting = true)
    (ha : e.asynchronous = false) : e.synchronous = true := by
  cases e with
  | breakpoint | watchpoint | breakpointInstruction | softwareStep | vectorCatch => cases h
  | externalDebugRequest | osUnlockCatch => cases ha
  | _ => rfl

namespace Machine

/-- An event of the group "Other software" is the Exception model's in every state. -/
theorem generate_otherSoftware (x : OtherSoftware) (s : State) :
    generate x.event s = .next (s.handToExceptionModel x.event) := by
  cases x <;> rfl

/-- Settles O22: of the effects a row has for its event, a Halting debug event has no exception to
hand over, and an event of the group "Other software" has only that one. -/
theorem haltingEventsAndDebugExceptionsApart :
    Obligations.HaltingEventsAndDebugExceptionsApart := by
  refine ⟨fun e s t hhalting h => ?_, fun x s => ⟨_, generate_otherSoftware x s, ?_⟩⟩
  · cases EventEffect.of_generate h with
    | entered =>
      rcases enterOrHold_cases s e.type with ⟨-, he⟩ | ⟨-, he⟩ <;> rw [he] <;>
        exact ⟨nofun, nofun, .inl rfl⟩
    | pended | ignored => exact ⟨nofun, nofun, .inl rfl⟩
    | handed hk =>
      obtain ⟨k, hk⟩ := hk
      cases (Event.exceptionKind_of_halting hhalting).symm.trans hk
    | undefined he => exact ⟨nofun, nofun, .inr ⟨he, rfl⟩⟩
  · rcases handToExceptionModel_cases s x.event with ⟨-, he⟩ | ⟨-, he⟩ <;> rw [he]
    · exact ⟨rfl, rfl, rfl, .inl rfl⟩
    · exact ⟨rfl, rfl, rfl, .inr rfl⟩

/-- Every synchronous Halting debug event but the halt instruction meets its entry condition where
halting is allowed and the OS Lock is unlocked (R72 to R74). -/
theorem entryConditionOf_of_halting {e : Event} {s : State} (hhalting : e.halting = true)
    (hsync : e.asynchronous = false) (hne : e ≠ .haltInstruction) (ha : s.haltingAllowed = true)
    (ho : s.oslk = false) : s.entryConditionOf e.type = true := by
  cases e with
  | haltInstruction => exact absurd rfl hne
  | softwareAccess => simp [State.entryConditionOf, Event.type, ha, ho]
  | exceptionCatch | haltingStep | resetCatch => exact ha
  | externalDebugRequest | osUnlockCatch => cases hsync
  | breakpoint | watchpoint | breakpointInstruction | softwareStep | vectorCatch => cases hhalting

/-- An event just pended is taken where halting is allowed and a precise state can be reached
(60_exceptions.md R188). -/
theorem takePending_pendEvent {s : State} (ha : s.haltingAllowed = true)
    (hp : s.canReachPreciseState = true) (p : Pendable) :
    takePending p (s.pendEvent p) = .next ((s.pendEvent p).enterDebugState p.type true) := by
  have ha' : (s.pendEvent p).haltingAllowed = true := ha
  exact if_pos (by simp [State.takeEnabled, ha', hp])

/-- Settles O25: `HDE` is read for the halt instruction alone, so that the other synchronous events
meet their entry condition; the asynchronous ones are pended and taken. -/
theorem onlyHaltInstructionReliesOnHde : Obligations.OnlyHaltInstructionReliesOnHde := by
  intro e s hhalting hhde ha ho hp
  have hn : s.halted = false := not_halted_of_haltingAllowed ha
  refine ⟨?_, fun hne hsync => ?_, fun p hasync hpend => ?_⟩
  · rintro rfl
    exact ⟨s.raiseUndefined, generate_haltInstruction_of_not_entry (.inr hhde), hn, rfl⟩
  · have hentry : s.entryConditionOf e.type = true :=
      entryConditionOf_of_halting hhalting hsync hne ha ho
    have hgen : generate e s = .next (s.enterOrHold e.type) :=
      generate_of_entryConditionOf (Event.synchronous_of_halting hhalting hsync) hentry
        (by rintro rfl; cases hhalting)
    rw [enterOrHold_precise hp] at hgen
    exact ⟨_, hgen, ⟨hn, rfl⟩, rfl⟩
  · obtain ⟨q, hq, -, hgen⟩ := generate_asynchronous hasync s
    obtain rfl : p = q := Option.some.inj (hpend.symm.trans hq)
    exact ⟨_, _, hgen, takePending_pendEvent ha hp p, ⟨hn, rfl⟩,
      congrArg some (EventType.eq_type_of_pendable hpend).symm⟩

end Machine

end Sys2Proof
end

section
/-! Breakpoint and Watchpoint debug events by the pseudocode of R97: where they enter Debug state,
and what handles them everywhere else (42_breakpoint_watchpoint.md R90 to R97; 45_summary_table.md
R138 to R142, R159). -/

namespace Sys2Proof.Machine

theorem rowOf_breakOrWatch (x : BreakOrWatch) (c : Conditions) :
    rowOf x.event c = rowBreakOrWatch x c := by
  cases x <;> rfl

/-! ## The functions of the text, by the conditions of the table -/

theorem haltOnBreakpointOrWatchpoint_eq_conditions (s : State) :
    s.haltOnBreakpointOrWatchpoint =
      (!s.halted && s.conditions.auth && !s.conditions.dlk && s.conditions.hde &&
        !s.conditions.oslk) := by
  rw [State.haltOnBreakpointOrWatchpoint, haltingAllowed_eq_conditions]
  rfl

theorem bwNotHalting_eq_conditions (s : State) :
    s.bwNotHalting = if s.conditions.dlk then .ignored else if s.conditions.oslk then .ignored
      else .exceptionModel := rfl

/-- A breakpoint or watchpoint that does not halt is ignored, or is the Exception model's (R94). -/
theorem bwNotHalting_cases (s : State) :
    s.bwNotHalting = .ignored ∨ s.bwNotHalting = .exceptionModel := by
  unfold State.bwNotHalting
  cases s.doubleLockStatus <;> cases s.oslk <;> simp

/-- The rows of the table for a breakpoint or watchpoint do what R97 says: the entry condition
decides between entry and what R94 gives the event. -/
theorem generate_breakOrWatch (x : BreakOrWatch) (s : State) :
    generate x.event s =
      if s.haltOnBreakpointOrWatchpoint then enterOnBreakOrWatch x s
      else .next (s.perform x.event s.bwNotHalting) := by
  rw [generate, rowOf_breakOrWatch, haltOnBreakpointOrWatchpoint_eq_conditions,
    bwNotHalting_eq_conditions]
  match hc : s.conditions with
  | ⟨_, true, _, _⟩ | ⟨_, false, true, _⟩ | ⟨false, false, false, _⟩
  | ⟨true, false, false, false⟩ =>
    rw [if_neg (by simp)]
    exact underConditions_of_selects (by simp [hc]) _
  | ⟨true, false, false, true⟩ =>
    refine (underConditions_of_selects (by simp [hc]) _).trans ?_
    cases hh : s.halted with
    | false => exact unlessHalted_nonDebug hh _ _
    | true => exact unlessHalted_debug hh _ _

/-! ## Entry to Debug state -/

theorem enterOnBreakOrWatch_reserved (s : State) :
    enterOnBreakOrWatch (.breakpoint .addressMismatch) s = .refused .addressMismatchReserved := rfl

theorem perform_bwNotHalting_halted (s : State) (e : Event) :
    (s.perform e s.bwNotHalting).halted = s.halted := by
  rcases bwNotHalting_cases s with ha | ha <;> rw [ha] <;> rfl

/-- An entry is made at once exactly where the PE can reach a precise state. -/
theorem entersDebugState_enterOrHold_iff {s : State} (hn : s.halted = false) (c : EventType) :
    EntersDebugState s (s.enterOrHold c) ↔ s.canReachPreciseState = true := by
  rcases enterOrHold_cases s c with ⟨hp, he⟩ | ⟨hp, he⟩ <;> simp [he, hp, hn, EntersDebugState]

/-- A breakpoint or watchpoint enters Debug state exactly on the condition of R90, where the type is
not reserved (R91) and the entry can be precise (44_imprecise_entry.md R111). -/
theorem exists_generate_breakOrWatch_enters_iff (x : BreakOrWatch) (s : State) :
    (∃ t, generate x.event s = .next t ∧ EntersDebugState s t) ↔
      s.haltOnBreakpointOrWatchpoint = true ∧ x.event ≠ .breakpoint .addressMismatch ∧
        s.canReachPreciseState = true := by
  rw [generate_breakOrWatch]
  cases hentry : s.haltOnBreakpointOrWatchpoint with
  | false =>
    refine ⟨?_, fun ⟨hfalse, _⟩ => nomatch hfalse⟩
    rintro ⟨t, ⟨⟩, henters⟩
    exact absurd henters (not_entersDebugState_of_halted_eq (perform_bwNotHalting_halted s _))
  | true =>
    obtain ⟨hallowed, -⟩ := haltingAllowed_of_entryConditionOf (c := .breakpoint) hentry
    have hn : s.halted = false := not_halted_of_haltingAllowed hallowed
    rw [if_pos rfl]
    by_cases hreserved : x.event = .breakpoint .addressMismatch
    · obtain rfl : x = .breakpoint .addressMismatch := by cases x <;> cases hreserved; rfl
      simp [enterOnBreakOrWatch_reserved, hreserved]
    · simp [enterOnBreakOrWatch_of_not_reserved hreserved, entersDebugState_enterOrHold_iff hn,
        hreserved]

/-- Settles O24: none of the three conditions of the entry is about the two controls. -/
theorem entryDoesNotReadMdeOrMdbgen : Obligations.EntryDoesNotReadMdeOrMdbgen :=
  fun x v w s => (exists_generate_breakOrWatch_enters_iff x { s with mde := v, mdbgen := w }).trans
    (exists_generate_breakOrWatch_enters_iff x s).symm

/-! ## The reserved type -/

theorem handToExceptionModel_outcome_cases (s : State) (e : Event) :
    (s.handToExceptionModel e).outcome = some .ignored ∨
      (s.handToExceptionModel e).outcome = some .debugException := by
  rcases handToExceptionModel_cases s e with ⟨-, he⟩ | ⟨-, he⟩ <;> rw [he]
  · exact .inr rfl
  · exact .inl rfl

theorem perform_bwNotHalting_outcome (s : State) (e : Event) :
    (s.perform e s.bwNotHalting).outcome = some .ignored ∨
      (s.perform e s.bwNotHalting).outcome = some .debugException := by
  rcases bwNotHalting_cases s with ha | ha <;> rw [ha]
  · exact .inl rfl
  · exact handToExceptionModel_outcome_cases s e

/-- Settles O6: the three conditions are the entry condition, on which the type is refused; where
one fails the type is handled as any other. -/
theorem reservedBreakpointRefused : Obligations.ReservedBreakpointRefused := by
  have hgen := generate_breakOrWatch (.breakpoint .addressMismatch)
  refine ⟨fun s hh ha ho => ?_, fun s hfails => ?_⟩
  · have hentry : s.haltOnBreakpointOrWatchpoint = true := by
      simp [State.haltOnBreakpointOrWatchpoint, hh, ha, ho]
    exact (hgen s).trans (if_pos hentry)
  · have hentry : ¬ s.haltOnBreakpointOrWatchpoint = true := by
      rcases hfails with h | h | h <;> simp [State.haltOnBreakpointOrWatchpoint, h]
    exact ⟨_, (hgen s).trans (if_neg hentry), perform_bwNotHalting_outcome s _⟩

/-! ## What the Exception model handles -/

/-- The Exception model's answer and what it leaves are the same with either value of `HDE` (R95,
43_other_debug_exceptions.md R101). -/
theorem handToExceptionModel_with_hde (s : State) (v : Bool) (e : Event) :
    ({ s with hde := v } : State).handToExceptionModel e =
      { s.handToExceptionModel e with hde := v } := rfl

theorem bwNotHalting_with_hde (s : State) (v : Bool) :
    ({ s with hde := v } : State).bwNotHalting = s.bwNotHalting := rfl

theorem perform_bwNotHalting_with_hde (s : State) (v : Bool) (e : Event) :
    ({ s with hde := v } : State).perform e s.bwNotHalting =
      { s.perform e s.bwNotHalting with hde := v } := by
  rcases bwNotHalting_cases s with ha | ha <;> rw [ha]
  · rfl
  · exact handToExceptionModel_with_hde s v e

/-- Settles O23: neither the choice between ignoring the event and the Exception model nor the
Exception model's answer reads `HDE`. -/
theorem debugExceptionsDoNotReadHde : Obligations.DebugExceptionsDoNotReadHde := by
  refine ⟨fun x v s hno hno' => ?_, fun x v s => ?_⟩
  · rw [generate_breakOrWatch, generate_breakOrWatch, hno, hno', bwNotHalting_with_hde,
      perform_bwNotHalting_with_hde]
    rfl
  · rw [generate_otherSoftware, generate_otherSoftware, handToExceptionModel_with_hde]
    rfl

end Sys2Proof.Machine
end

section
/-! Held and imprecise entries to Debug state (44_imprecise_entry.md; 60_exceptions.md R171):
one equation for each case of the operations, and the steps of the agenda that run them. -/

namespace Sys2Proof.Machine

/-! ## Holding an entry -/

/-- Settles O28: an event on its entry condition is held for the entry where that cannot be
precise. -/
theorem entryHeldUntilPrecise : Obligations.EntryHeldUntilPrecise := by
  intro e s hsync hentry hreserved hp
  rw [generate_of_entryConditionOf hsync hentry hreserved, enterOrHold_held hp]

/-- A step that needs an instruction does not take place while an entry is held. -/
theorem act_dropped {m : Move} {s : State} (hw : m.wellFormed s.params = true)
    (hh : s.held.isSome = true) (hm : m.needsExecution = true) : act m s = .next s := by
  rw [act, if_pos hw]
  exact if_pos (by simp [hh, hm])

/-- Settles O29: the entry is taken where an instruction would come next; otherwise the step of the
agenda comes, and the held entry drops it exactly if it needs an instruction. -/
theorem heldEntryTakenFirst : Obligations.HeldEntryTakenFirst := by
  refine fun c s hh => ⟨fun hp hnext => ?_, fun hp m rest ha hw hm => ?_,
    fun m rest ha hw hm => step_actFreely ha hw (.inr hm)⟩
  · have hinstr : s.instructionNext = true := by
      rcases hnext with ha | ⟨m, rest, ha, hm⟩
      · exact instructionNext_nil ha
      · exact (instructionNext_cons ha).trans hm
    exact step_taken hh hp hinstr
  · have hheld : (s.advance rest).held.isSome = true := by simp [hh]
    exact (step_agenda ha (.inr (.inl hp))).trans (act_dropped hw hheld hm)

/-! ## The write of `EDRCR.CBRRQ` -/

/-- `CBRRQWriteIgnored()` is TRUE in the three cases of R114. -/
theorem cbrrqWriteIgnored_iff (s : State) :
    s.cbrrqWriteIgnored = true ↔
      (s.authNs = false ∨
        (s.params.featRme = false ∧ s.authS = false ∧
          ((s.params.el3 = false ∧ s.params.onlySecure = true) ∨ s.params.el3 = true)) ∨
        (s.params.featRme = true ∧ s.authRt = false)) := by
  simp only [State.cbrrqWriteIgnored, Bool.or_eq_true, Bool.and_eq_true, Bool.not_eq_true',
    and_assoc, or_assoc]

theorem writeCbrrq_without_effect {v : Bool} {s : State}
    (h : v = false ∨ s.params.cbrrq = false ∨ s.cbrrqWriteIgnored = true) :
    writeCbrrq v s = .next s := by
  unfold writeCbrrq
  rcases h with h | h | h <;> simp [h]

/-- The write is tested for being ignored before a request must be pending (R121). -/
theorem writeCbrrq_of_not_ignored {s : State} (hfeat : s.params.cbrrq = true)
    (hignored : s.cbrrqWriteIgnored = false) :
    writeCbrrq true s =
      if s.pending.externalDebugRequest then .next { s with cbrrqRequested := true }
      else .refused .cbrrqWithoutPendingRequest := by
  unfold writeCbrrq
  cases s.pending.externalDebugRequest <;> simp [hfeat, hignored]

theorem step_writeCbrrq {s : State} {v : Bool} {rest : List Move}
    (ha : s.agenda = .writeCbrrq v :: rest) : step s = writeCbrrq v (s.advance rest) :=
  step_actFreely ha rfl (.inr rfl)

/-- A write of 1 that is not ignored, with a request pending, sets `CBRRQ_requested`. -/
theorem step_writeCbrrq_requests {s : State} {rest : List Move}
    (ha : s.agenda = .writeCbrrq true :: rest) (hfeat : s.params.cbrrq = true)
    (hignored : s.cbrrqWriteIgnored = false) (hpend : s.pending.externalDebugRequest = true) :
    step s = .next { s with cbrrqRequested := true, agenda := rest, tick := s.tick + 1 } := by
  calc step s = writeCbrrq true (s.advance rest) := step_writeCbrrq ha
    _ = _ := (writeCbrrq_of_not_ignored (s := s.advance rest) hfeat hignored).trans (if_pos hpend)

/-- Settles O42: an ignored write is one of those without effect. -/
theorem cbrrqWriteIgnoredInThreeCases : Obligations.CbrrqWriteIgnoredInThreeCases :=
  ⟨fun _ _ h => writeCbrrq_without_effect (.inr (.inr h)), cbrrqWriteIgnored_iff⟩

/-- Settles O43: the write without effect, and the other, which needs the pending request. -/
theorem cbrrqWriteRequests : Obligations.CbrrqWriteRequests := by
  refine fun v s rest ha => ⟨fun h => ?_, fun hv hfeat hignored => ?_⟩
  · exact (step_writeCbrrq ha).trans (writeCbrrq_without_effect (s := s.advance rest) h)
  · subst hv
    refine ⟨fun hpend => ?_, step_writeCbrrq_requests ha hfeat hignored⟩
    calc step s = writeCbrrq true (s.advance rest) := step_writeCbrrq ha
      _ = .refused .cbrrqWithoutPendingRequest :=
        (writeCbrrq_of_not_ignored (s := s.advance rest) hfeat hignored).trans
          (if_neg (by simp [hpend]))

/-! ## The imprecise entry -/

/-- The four conditions of R116. -/
theorem impreciseEntryEnabled_iff (s : State) :
    s.impreciseEntryEnabled = true ↔ s.params.cbrrq = true ∧ s.cbrrqRequested = true ∧
      s.pending.externalDebugRequest = true ∧ s.haltingAllowed = true :=
  ⟨haltingAllowed_of_impreciseEntryEnabled, fun ⟨hfeat, hreq, hpend, hallowed⟩ => by
    simp [State.impreciseEntryEnabled, hfeat, hreq, hpend, hallowed]⟩

/-- Where the imprecise entry is enabled, its step makes it, after the step is counted. -/
theorem step_impreciseEntry_of_enabled {s : State} {rest : List Move}
    (ha : s.agenda = .impreciseEntry :: rest) (h : s.impreciseEntryEnabled = true) :
    step s = .next (((s.advance rest).cancelOutstandingMemoryAccesses.enterDebugState
      .externalDebugRequest false).unknownRegisters) :=
  (step_actFreely ha rfl (.inr rfl)).trans (if_pos h)

theorem step_impreciseEntry_of_not_enabled {s : State} {rest : List Move}
    (ha : s.agenda = .impreciseEntry :: rest) (h : s.impreciseEntryEnabled = false) :
    step s = .next (s.advance rest) :=
  (step_actFreely ha rfl (.inr rfl)).trans (if_neg (ne_true_of_eq_false h))

/-- Settles O44: the four conditions enable the step, and each is needed. -/
theorem impreciseEntryForcesDebugState : Obligations.ImpreciseEntryForcesDebugState := by
  refine fun s rest ha => ⟨fun hfeat hreq hpend hallowed => ?_, fun hfails => ?_⟩
  · exact step_impreciseEntry_of_enabled ha
      ((impreciseEntryEnabled_iff s).mpr ⟨hfeat, hreq, hpend, hallowed⟩)
  · refine step_impreciseEntry_of_not_enabled ha ?_
    rcases hfails with h | h | h | h <;> simp [State.impreciseEntryEnabled, h]

/-! ## The ITR -/

theorem runItr_refused {after : Registers} {s : State} (hh : s.halted = true)
    (hitr : s.itr = some .memoryAccess) (himp : s.entryImprecise = true) :
    runItr after s = .refused .itrMemoryAccessAfterImpreciseEntry := by
  simp [runItr, hh, hitr, himp]

/-- Every instruction in the ITR but a memory access after an imprecise entry runs. -/
theorem runItr_of_allowed {k : ItrInstruction} {after : Registers} {s : State}
    (hh : s.halted = true) (hitr : s.itr = some k)
    (h : k = .otherInstruction ∨ s.entryImprecise = false) :
    runItr after s = .next { s with registers := after, itr := none } := by
  unfold runItr
  cases k with
  | otherInstruction => simp [hh, hitr]
  | memoryAccess =>
    have hprecise : s.entryImprecise = false := h.resolve_left nofun
    simp [hh, hitr, hprecise]

/-- Settles O45: after a precise entry, or for another instruction, the ITR runs. -/
theorem itrMemoryAccessRefusedAfterImpreciseEntry :
    Obligations.ItrMemoryAccessRefusedAfterImpreciseEntry := by
  refine fun k after s hh hitr => ⟨fun hk himp => ?_, runItr_of_allowed hh hitr⟩
  exact runItr_refused hh (hk ▸ hitr) himp

/-! ## Example H2-1 -/

/-- An External Debug Request is pended in every state, held or not (60_exceptions.md R187). -/
theorem step_externalDebugRequest {s : State} {rest : List Move}
    (ha : s.agenda = .event .externalDebugRequest :: rest) :
    step s = .next ((s.advance rest).pendEvent .externalDebugRequest) := by
  obtain ⟨p, hp, -, hgen⟩ :=
    generate_asynchronous (e := .externalDebugRequest) rfl (s.advance rest)
  obtain rfl : .externalDebugRequest = p := Option.some.inj hp
  exact (step_actFreely ha rfl (.inr rfl)).trans hgen

/-- While no precise state can be reached no pended event is taken (R111). -/
theorem step_take_of_imprecise {s : State} {p : Pendable} {rest : List Move}
    (ha : s.agenda = .take p :: rest) (hp : s.canReachPreciseState = false) :
    step s = .next (s.advance rest) :=
  (step_actFreely ha rfl (.inr rfl)).trans (if_neg (by simp [State.takeEnabled, hp]))

/-- Settles O46: the request is pended and not taken, so that the write is neither ignored nor
refused, and the imprecise entry finds its four conditions. -/
theorem debuggerForcesEntry : Obligations.DebuggerForcesEntry := by
  intro s rest ha _ hallowed hp hfeat hignored
  have hn : s.halted = false := not_halted_of_haltingAllowed hallowed
  refine ⟨_, _, _, _, step_externalDebugRequest ha, step_take_of_imprecise rfl hp,
    step_writeCbrrq_requests rfl hfeat hignored rfl, step_impreciseEntry_of_enabled rfl ?_,
    rfl, hn, rfl, hn, rfl, hn, rfl, rfl, rfl, rfl, rfl, rfl⟩
  exact (impreciseEntryEnabled_iff _).mpr ⟨hfeat, rfl, rfl, hallowed⟩

end Sys2Proof.Machine
end

section
/-! The rows of Table H2-1 in Non-debug state (45_summary_table.md R137 to R156): a state at a row
has the row's conditions, so that `exec` gives the row's own result. -/

namespace Sys2Proof.Machine

/-! ## A row in a state at the row -/

/-- The columns of a row are the conditions its mask and match are read against. -/
theorem selects_of_atRow {s : State} {a d o h : Bool} {m p : BitVec 4} (hr : s.AtRow a d o h)
    (hsel : Conditions.selects ⟨a, d, o, h⟩ m p = true) : s.conditions.selects m p = true := by
  rwa [conditions_of_atRow hr]

/-- A row that does not halt the PE has its result. -/
theorem underConditions_of_atRow {s : State} {a d o h : Bool} {m p : BitVec 4}
    (hr : s.AtRow a d o h) (hsel : Conditions.selects ⟨a, d, o, h⟩ m p = true)
    (r : Host.Outcome State Fault Refusal) : s.underConditions m p r = r :=
  underConditions_of_selects (selects_of_atRow hr hsel) r

/-- A row that halts the PE has the result it has in Non-debug state. -/
theorem underConditions_unlessHalted_of_atRow {s : State} {a d o h : Bool} {m p : BitVec 4}
    (hr : s.AtRow a d o h) (hsel : Conditions.selects ⟨a, d, o, h⟩ m p = true)
    (n debug : Host.Outcome State Fault Refusal) :
    s.underConditions m p (s.unlessHalted n debug) = n :=
  have ⟨hn, _⟩ := hr
  underConditions_unlessHalted_of_selects (selects_of_atRow hr hsel) hn n debug

/-- A row that halts the PE enters Debug state where the entry can be precise. -/
theorem enters_of_atRow {s : State} {a d o h : Bool} {m p : BitVec 4} (hr : s.AtRow a d o h)
    (hsel : Conditions.selects ⟨a, d, o, h⟩ m p = true) (hp : s.canReachPreciseState = true)
    (cause : EventType) (debug : Host.Outcome State Fault Refusal) :
    s.underConditions m p (s.unlessHalted (.next (s.enterOrHold cause)) debug) =
      .next (s.enterDebugState cause true) := by
  rw [underConditions_unlessHalted_of_atRow hr hsel, enterOrHold_precise hp]

/-- A row of the group "Other Halting" whose result is to pend the event pends it, synchronous or
not. -/
theorem otherHalting_pended_of_selects {s : State} {m p : BitVec 4}
    (hsel : s.conditions.selects m p = true) (x : OtherHalting) :
    otherHalting x m p (.next (s.pendEvent x.pendable)) s = .next (s.pendEvent x.pendable) := by
  rcases otherHalting_cases x m p (.next (s.pendEvent x.pendable)) s with ⟨-, he⟩ | ⟨-, he⟩
  · exact he
  · exact he.trans (underConditions_of_selects hsel _)

/-- "Might be pended": what `FEAT_Debugv8p8` and the oracle make of an Exception Catch debug
event. -/
theorem exceptionCatchNotHalting_eq_ite (s : State) :
    s.exceptionCatchNotHalting =
      if s.params.featDebugv8p8 = true ∧ s.exceptionCatchPends = true then
        s.pendEvent .exceptionCatch
      else s.ignoreEvent := by
  rcases exceptionCatchNotHalting_cases s with ⟨hfeat, hpends, he⟩ | ⟨hno, he⟩
  · rw [he, if_pos ⟨hfeat, hpends⟩]
  · rw [he, if_neg]
    rintro ⟨hfeat, hpends⟩
    simp [hfeat, hpends] at hno

/-! ## Row 1 -/

/-- Settles O1: the row reads no condition, and hands the event over. -/
theorem otherSoftwareGoesToExceptionModel : Obligations.OtherSoftwareGoesToExceptionModel :=
  fun _ _ _ _ _ _ => rfl

/-! ## Rows 2 to 6 -/

theorem event_ne_of_ne_addressMismatch {x : BreakOrWatch} (h : x ≠ .breakpoint .addressMismatch) :
    x.event ≠ .breakpoint .addressMismatch := by
  rintro he
  cases x <;> cases he
  exact h rfl

/-- Settles O2: the row's result is to ignore the event. -/
theorem breakOrWatchIgnoredUnderDoubleLock : Obligations.BreakOrWatchIgnoredUnderDoubleLock :=
  fun _ _ _ _ _ hr => underConditions_of_atRow hr (Conditions.selects_bwDlk _) _

/-- Settles O3: the row's result is to ignore the event. -/
theorem breakOrWatchIgnoredUnderOsLock : Obligations.BreakOrWatchIgnoredUnderOsLock :=
  fun _ _ _ _ hr => underConditions_of_atRow hr (Conditions.selects_bwOslk _) _

/-- Settles O4: the result of both rows is the Exception model's. -/
theorem breakOrWatchGoesToExceptionModel : Obligations.BreakOrWatchGoesToExceptionModel :=
  ⟨fun _ _ _ hr => underConditions_of_atRow hr (Conditions.selects_bwNoauth _) _,
    fun _ _ hr => underConditions_of_atRow hr (Conditions.selects_bwHde0 _) _⟩

/-- Settles O5: the type is not reserved, so that the row enters; neither type has an entry in
`Pending` that the entry could erase. -/
theorem breakOrWatchEntersDebugState : Obligations.BreakOrWatchEntersDebugState := by
  intro x s hr hreserved hp
  have hrow : exec (.bwHalt x) s = enterOnBreakOrWatch x s :=
    underConditions_unlessHalted_of_atRow hr (Conditions.selects_bwHalt _) _ _
  rw [hrow, enterOnBreakOrWatch_of_not_reserved (event_ne_of_ne_addressMismatch hreserved),
    enterOrHold_precise hp]
  cases x <;> rfl

/-! ## Rows 7 to 10 -/

/-- Settles O7: the result of the three rows is `raise Undefined`. -/
theorem haltInstructionUndefined : Obligations.HaltInstructionUndefined :=
  ⟨fun _ _ _ _ hr => underConditions_of_atRow hr (Conditions.selects_noauth _) _,
    fun _ _ _ hr => underConditions_of_atRow hr (Conditions.selects_dlk _) _,
    fun _ _ hr => underConditions_of_atRow hr (Conditions.selects_hltHde0 _) _⟩

/-- Settles O8: the type has no entry in `Pending` that the entry could erase. -/
theorem haltInstructionEntersDebugState : Obligations.HaltInstructionEntersDebugState :=
  fun _ _ hr hp => enters_of_atRow hr (Conditions.selects_hltHalt _) hp .haltInstruction _

/-! ## Rows 11 to 13 -/

/-- Settles O9: row 11 might pend the event, row 12 in Non-debug state ignores it. -/
theorem exceptionCatchPendedOrIgnored : Obligations.ExceptionCatchPendedOrIgnored := by
  refine ⟨fun p d o h s hr => ?_,
    fun _ _ _ _ hr => underConditions_unlessHalted_of_atRow hr (Conditions.selects_dlk _) _ _⟩
  have hrow : exec (.ecNoauth p d o h) s = .next s.exceptionCatchNotHalting :=
    underConditions_of_atRow hr (Conditions.selects_noauth _) _
  rw [hrow, exceptionCatchNotHalting_eq_ite]
  refine ⟨fun hfeat => ?_, fun hfeat => ?_⟩
  · rw [if_neg (by simp [hfeat])]
    rfl
  · simp only [hfeat, true_and]
    rfl

/-- Settles O10: the entry erases the type from `Pending`. -/
theorem exceptionCatchEntersDebugState : Obligations.ExceptionCatchEntersDebugState :=
  fun _ _ _ _ hr hp => enters_of_atRow hr (Conditions.selects_halt _) hp .exceptionCatch _

/-! ## Rows 14 to 17 -/

/-- Settles O11: the result of the three rows is to ignore the event. -/
theorem softwareAccessIgnored : Obligations.SoftwareAccessIgnored :=
  ⟨fun _ _ _ _ hr => underConditions_of_atRow hr (Conditions.selects_noauth _) _,
    fun _ _ _ hr => underConditions_of_atRow hr (Conditions.selects_dlk _) _,
    fun _ _ hr => underConditions_of_atRow hr (Conditions.selects_saOslk _) _⟩

/-- Settles O12: the type has no entry in `Pending` that the entry could erase. -/
theorem softwareAccessEntersDebugState : Obligations.SoftwareAccessEntersDebugState :=
  fun _ _ hr hp => enters_of_atRow hr (Conditions.selects_saHalt _) hp .softwareAccess _

/-! ## Rows 18 to 20 -/

/-- Settles O13: the result of both rows is to pend the event. -/
theorem otherHaltingPended : Obligations.OtherHaltingPended :=
  ⟨fun x _ _ _ _ hr =>
      otherHalting_pended_of_selects (selects_of_atRow hr (Conditions.selects_noauth _)) x,
    fun x _ _ _ hr =>
      otherHalting_pended_of_selects (selects_of_atRow hr (Conditions.selects_dlk _)) x⟩

/-- Settles O14: a synchronous event of the group enters by the row's result; an asynchronous one is
pended before any condition is read, and at this row halting is allowed, so that it can be taken. -/
theorem otherHaltingEntersDebugState : Obligations.OtherHaltingEntersDebugState := by
  intro x o h s hr hp
  obtain ⟨hn, hauth, hdlk, -, -⟩ := id hr
  have hallowed : s.haltingAllowed = true := haltingAllowed_of_conditions hn hauth hdlk
  refine ⟨?_, ?_⟩
  · rintro (rfl | rfl) <;> exact enters_of_atRow hr (Conditions.selects_halt _) hp _ _
  · rintro (rfl | rfl) <;> exact ⟨_, rfl, rfl, takePending_pendEvent hallowed hp _⟩

end Sys2Proof.Machine
end

section
/-! Table H2-1 as data: its rows divide the condition vectors of each row group among them
(45_summary_table.md R158). -/

namespace Sys2Proof

/-- Of the rows of one group exactly one has a mask and match that a condition vector meets. -/
theorem length_filter_group_selects (g : RowGroup) (c : Conditions) :
    (tableRows.filter fun r => r.group == g && c.selects r.mask r.pattern).length = 1 := by
  obtain ⟨a, d, o, h⟩ := c
  revert a d o h
  cases g <;> decide

/-- Settles O19: the rows that take an event are those of its group, and the one there is has the
number of the row that is run. -/
theorem exactlyOneRowTakesAnEvent : Obligations.ExactlyOneRowTakesAnEvent := by
  intro e c
  obtain ⟨r, hr⟩ := List.length_eq_one_iff.mp (length_filter_group_selects e.group c)
  have hmem : r ∈ tableRows.filter fun x => x.takes e c := hr ▸ List.mem_singleton_self r
  obtain ⟨hrow, htakes⟩ := List.mem_filter.mp hmem
  exact ⟨r, hr, tableRowNumber_rowOf_of_takes e c r hrow htakes⟩

end Sys2Proof
end

section
/-! Table H2-1 and the functions of the text give every event the same action (45_summary_table.md
R157): for each kind of event what the text does, and what the rows do where the event may not halt
the PE, which is everywhere in Debug state (R159). -/

namespace Sys2Proof.Machine

/-! ## The functions of the text, by the kind of event -/

theorem reservedBreakpoint_of_halting {e : Event} (h : e.halting = true) (s : State) :
    s.reservedBreakpoint e = false := by
  have hne : e ≠ .breakpoint .addressMismatch := by
    rintro rfl
    cases h
  simp [State.reservedBreakpoint, hne]

theorem debugEventAction_of_halting {e : Event} (h : e.halting = true) (s : State) :
    s.debugEventAction e = s.haltingDebugEventAction e := by
  cases e with
  | breakpoint | watchpoint | breakpointInstruction | softwareStep | vectorCatch => cases h
  | _ => rfl

/-- A Halting debug event is never reserved: the PE acts on `HaltingDebugEventAction`. -/
theorem evaluate_of_halting {e : Event} (h : e.halting = true) (s : State) :
    s.evaluate e = .next (s.perform e (s.haltingDebugEventAction e)) := by
  rw [State.evaluate, reservedBreakpoint_of_halting h, debugEventAction_of_halting h]
  rfl

/-- A Halting debug event that may not halt the PE is handled as R76 to R79 say. -/
theorem evaluate_of_not_entry {e : Event} {s : State} (hhalting : e.halting = true)
    (hno : (s.haltingAllowed && s.typeCondition e) = false) :
    s.evaluate e = .next (s.perform e (s.notEnteringAction e)) := by
  rw [evaluate_of_halting hhalting, State.haltingDebugEventAction, hno]
  rfl

/-- A synchronous Halting debug event that may halt the PE enters, or is held for the entry. -/
theorem evaluate_of_entry {e : Event} {s : State} (hhalting : e.halting = true)
    (hsync : e.asynchronous = false) (h : (s.haltingAllowed && s.typeCondition e) = true) :
    s.evaluate e = .next (s.enterOrHold e.type) := by
  rw [evaluate_of_halting hhalting, State.haltingDebugEventAction, if_pos h, State.perform, hsync]
  rfl

/-- The text's condition for the entry of a synchronous Halting debug event is the entry condition
of its type (R71). -/
theorem entryConditionOf_of_synchronous {e : Event} (hhalting : e.halting = true)
    (hsync : e.asynchronous = false) (s : State) :
    s.entryConditionOf e.type = (s.haltingAllowed && s.typeCondition e) := by
  cases e with
  | haltInstruction | softwareAccess => rfl
  | exceptionCatch | haltingStep | resetCatch => exact (Bool.and_true _).symm
  | externalDebugRequest | osUnlockCatch => cases hsync
  | breakpoint | watchpoint | breakpointInstruction | softwareStep | vectorCatch => cases hhalting

/-- Where a breakpoint or watchpoint halts the PE it enters, or is refused if its type is reserved
(R91); everywhere else it is handled as R94 says. -/
theorem evaluate_breakOrWatch (x : BreakOrWatch) (s : State) :
    s.evaluate x.event =
      if s.haltOnBreakpointOrWatchpoint then enterOnBreakOrWatch x s
      else .next (s.perform x.event s.bwNotHalting) := by
  have haction : s.debugEventAction x.event = s.breakpointOrWatchpointAction := by
    cases x <;> rfl
  rw [State.evaluate, haction, State.breakpointOrWatchpointAction, State.reservedBreakpoint]
  cases s.haltOnBreakpointOrWatchpoint with
  | false => rw [Bool.and_false]; rfl
  | true =>
    match x with
    | .breakpoint .addressMismatch | .breakpoint .other | .watchpoint => rfl

/-- The two arms of R94, as a condition on the locks. -/
theorem perform_bwNotHalting (s : State) (e : Event) :
    s.perform e s.bwNotHalting =
      if s.doubleLockStatus = true ∨ s.oslk = true then s.ignoreEvent
      else s.handToExceptionModel e := by
  unfold State.bwNotHalting
  cases s.doubleLockStatus <;> cases s.oslk <;> rfl

theorem exceptionCatchNotHaltingAction_eq_conditions (s : State) :
    s.exceptionCatchNotHaltingAction =
      if !s.params.featDebugv8p8 then .ignored
      else if !s.halted && s.conditions.auth && s.conditions.dlk then .ignored
      else if s.exceptionCatchPends then .pended
      else .ignored := rfl

/-- "Might be pended" in the words of the text (R78): in Non-debug state, with Authentication TRUE
and DLK TRUE, the event is ignored. -/
theorem perform_exceptionCatchNotHaltingAction (s : State) (p : CatchPriority) :
    s.perform (.exceptionCatch p) s.exceptionCatchNotHaltingAction =
      if (!s.halted && s.conditions.auth && s.conditions.dlk) = true then s.ignoreEvent
      else s.exceptionCatchNotHalting := by
  rw [exceptionCatchNotHaltingAction_eq_conditions, exceptionCatchNotHalting_eq_ite]
  cases s.params.featDebugv8p8 <;> cases s.exceptionCatchPends <;>
    cases (!s.halted && s.conditions.auth && s.conditions.dlk) <;> rfl

/-! ## The rows of an event that may not halt the PE -/

/-- Where the table would halt the PE and halting is not allowed, the PE is in Debug state. -/
theorem halted_of_not_haltingAllowed {s : State} {o h : Bool} (hno : s.haltingAllowed = false)
    (hc : s.conditions = ⟨true, false, o, h⟩) : s.halted = true := by
  simpa [haltingAllowed_eq_conditions, hc] using hno

/-- A row that would halt the PE has, where halting is not allowed, the result it has in Debug
state. -/
theorem unlessHalted_of_not_haltingAllowed {s : State} {o h : Bool} (hno : s.haltingAllowed = false)
    (hc : s.conditions = ⟨true, false, o, h⟩) (n debug : Host.Outcome State Fault Refusal) :
    s.unlessHalted n debug = debug :=
  unlessHalted_debug (halted_of_not_haltingAllowed hno hc) n debug

theorem generate_softwareAccess_of_not_entry {s : State}
    (hno : s.haltingAllowed = false ∨ s.oslk = true) :
    generate .softwareAccess s = .next s.ignoreEvent := by
  unfold generate
  match hc : s.conditions with
  | ⟨false, _, _, _⟩ | ⟨true, true, _, _⟩ | ⟨true, false, true, _⟩ =>
    exact underConditions_of_selects (by simp [hc]) _
  | ⟨true, false, false, _⟩ =>
    have ho : s.oslk = false := congrArg Conditions.oslk hc
    have hprohibited : s.haltingAllowed = false := hno.resolve_right (by simp [ho])
    exact (underConditions_of_selects (by simp [hc]) _).trans
      (unlessHalted_of_not_haltingAllowed hprohibited hc _ _)

/-- Row 12 ignores the event in Non-debug state; everywhere else the event might be pended. -/
theorem generate_exceptionCatch_of_not_entry {s : State} (hno : s.haltingAllowed = false)
    (p : CatchPriority) :
    generate (.exceptionCatch p) s =
      .next (if (!s.halted && s.conditions.auth && s.conditions.dlk) = true then s.ignoreEvent
        else s.exceptionCatchNotHalting) := by
  unfold generate
  match hc : s.conditions with
  | ⟨false, _, _, _⟩ =>
    rw [if_neg (by simp)]
    exact underConditions_of_selects (by simp [hc]) _
  | ⟨true, true, _, _⟩ =>
    refine (underConditions_of_selects (by simp [hc]) _).trans ?_
    cases hh : s.halted with
    | false => exact unlessHalted_nonDebug hh _ _
    | true => exact unlessHalted_debug hh _ _
  | ⟨true, false, _, _⟩ =>
    rw [if_neg (by simp)]
    exact (underConditions_of_selects (by simp [hc]) _).trans
      (unlessHalted_of_not_haltingAllowed hno hc _ _)

theorem rowOf_otherHalting (x : OtherHalting) (c : Conditions) :
    rowOf x.event c = rowOtherHalting x c := by
  cases x <;> rfl

theorem generate_otherHalting_of_not_entry {s : State} (hno : s.haltingAllowed = false)
    (x : OtherHalting) : generate x.event s = .next (s.pendEvent x.pendable) := by
  rw [generate, rowOf_otherHalting]
  match hc : s.conditions with
  | ⟨false, _, _, _⟩ | ⟨true, true, _, _⟩ => exact otherHalting_pended_of_selects (by simp [hc]) x
  | ⟨true, false, o, h⟩ =>
    change otherHalting x _ _ (s.unlessHalted _ _) s = _
    rw [unlessHalted_of_not_haltingAllowed hno hc]
    exact otherHalting_pended_of_selects (by simp [hc]) x

/-! ## The table and the text -/

/-- A synchronous Halting debug event enters on the same condition by both; where the condition
fails the rows of each group do what R76 to R79 say. -/
theorem generate_eq_evaluate_of_halting {e : Event} (hhalting : e.halting = true)
    (hsync : e.asynchronous = false) (s : State) : generate e s = s.evaluate e := by
  cases hentry : s.haltingAllowed && s.typeCondition e with
  | true =>
    rw [evaluate_of_entry hhalting hsync hentry]
    refine generate_of_entryConditionOf (Event.synchronous_of_halting hhalting hsync) ?_ ?_
    · rw [entryConditionOf_of_synchronous hhalting hsync, hentry]
    · rintro rfl
      cases hhalting
  | false =>
    rw [evaluate_of_not_entry hhalting hentry]
    have hno := Bool.and_eq_false_iff.1 hentry
    cases e with
    | haltInstruction => exact generate_haltInstruction_of_not_entry hno
    | softwareAccess =>
      exact generate_softwareAccess_of_not_entry (hno.imp_right (by simp [State.typeCondition]))
    | exceptionCatch p =>
      refine (generate_exceptionCatch_of_not_entry (hno.resolve_right nofun) p).trans ?_
      exact congrArg _ (perform_exceptionCatchNotHaltingAction s p).symm
    | haltingStep => exact generate_otherHalting_of_not_entry (hno.resolve_right nofun) .haltingStep
    | resetCatch => exact generate_otherHalting_of_not_entry (hno.resolve_right nofun) .resetCatch
    | externalDebugRequest | osUnlockCatch => cases hsync
    | breakpoint | watchpoint | breakpointInstruction | softwareStep | vectorCatch => cases hhalting

/-- The text lets an asynchronous event enter or pends it (R71, R79). -/
theorem haltingDebugEventAction_of_asynchronous {e : Event} (ha : e.asynchronous = true)
    (s : State) :
    s.haltingDebugEventAction e = if s.haltingAllowed then .enterDebugState else .pended := by
  cases e with
  | externalDebugRequest | osUnlockCatch =>
    simp [State.haltingDebugEventAction, State.typeCondition, State.notEnteringAction]
  | _ => cases ha

theorem halting_of_asynchronous {e : Event} (ha : e.asynchronous = true) : e.halting = true := by
  cases e with
  | externalDebugRequest | osUnlockCatch => rfl
  | _ => cases ha

/-- The entry of an asynchronous event goes through `Pending`, so that both actions of the text pend
it (R86, R88). -/
theorem generate_eq_evaluate_of_asynchronous {e : Event} (ha : e.asynchronous = true) (s : State) :
    generate e s = s.evaluate e := by
  obtain ⟨p, hp, -, hgen⟩ := generate_asynchronous ha s
  rw [hgen, evaluate_of_halting (halting_of_asynchronous ha),
    haltingDebugEventAction_of_asynchronous ha]
  cases s.haltingAllowed <;> simp [State.perform, ha, hp]

/-- The row selected for an event does what the functions of the text give it. -/
theorem generate_eq_evaluate (e : Event) (s : State) : generate e s = s.evaluate e := by
  have breakOrWatch (x : BreakOrWatch) : generate x.event s = s.evaluate x.event :=
    (generate_breakOrWatch x s).trans (evaluate_breakOrWatch x s).symm
  cases e with
  | haltInstruction | softwareAccess | exceptionCatch | haltingStep | resetCatch =>
    exact generate_eq_evaluate_of_halting rfl rfl s
  | externalDebugRequest | osUnlockCatch => exact generate_eq_evaluate_of_asynchronous rfl s
  | breakpoint t => exact breakOrWatch (.breakpoint t)
  | watchpoint => exact breakOrWatch .watchpoint
  | breakpointInstruction => exact generate_otherSoftware .breakpointInstruction s
  | softwareStep => exact generate_otherSoftware .softwareStep s
  | vectorCatch f => exact generate_otherSoftware (.vectorCatch f) s

/-- Settles O18: the generation of an event is the run of the row selected for it. -/
theorem tableAgreesWithTheText : Obligations.TableAgreesWithTheText :=
  generate_eq_evaluate

/-! ## Events in Debug state -/

/-- Settles O21: in Debug state halting is not allowed, and each event does what it does wherever it
may not halt the PE. -/
theorem eventsInDebugState : Obligations.EventsInDebugState := by
  intro s hh
  have hno : s.haltingAllowed = false := by simp [haltingAllowed_eq, hh]
  refine ⟨generate_haltInstruction_of_not_entry (.inl hno),
    generate_softwareAccess_of_not_entry (.inl hno), fun p => ?_,
    generate_otherHalting_of_not_entry hno, fun x => ?_⟩
  · rw [generate_exceptionCatch_of_not_entry hno, if_neg (by simp [hh]),
      exceptionCatchNotHalting_eq_ite]
    split <;> rfl
  · have hbw : s.haltOnBreakpointOrWatchpoint = false := by
      simp [State.haltOnBreakpointOrWatchpoint, hno]
    rw [generate_breakOrWatch, hbw, if_neg Bool.false_ne_true, perform_bwNotHalting]
    split <;> rfl

end Sys2Proof.Machine
end

section
/-! Pending, removing and taking an event, each as a step of its own (60_exceptions.md R176, R186 to
R189). -/

namespace Sys2Proof

/-- Pending a type already pending changes nothing. -/
theorem Pending.insert_of_has {s : Pending} {p : Pendable} (h : s.has p = true) :
    s.insert p = s := by
  refine Pending.eq_of_has fun q => ?_
  by_cases hq : q = p
  · rw [hq, Pending.has_insert_self, h]
  · exact Pending.has_insert_of_ne s hq

/-- Pending several types pends each of them. -/
theorem Pending.has_foldl_insert_of_mem {p : Pendable} {l : List Pendable} (hp : p ∈ l)
    (q : Pending) : (l.foldl Pending.insert q).has p = true := by
  induction l generalizing q with
  | nil => cases hp
  | cons a l ih =>
    rcases List.mem_cons.1 hp with rfl | hp
    · exact Pending.has_foldl_insert l (Pending.has_insert_self q p)
    · exact ih hp _

namespace Machine

theorem step_dropPending {s : State} {p : Pendable} {rest : List Move}
    (ha : s.agenda = .dropPending p :: rest) :
    step s = .next { s.advance rest with pending := s.pending.erase p } :=
  step_actFreely ha rfl (.inr rfl)

/-- Settles O31: pending inserts the one type, and the environment's step erases it. -/
theorem pendingAddedAndRemoved : Obligations.PendingAddedAndRemoved :=
  ⟨fun s p q => ⟨Pending.has_insert s.pending p q, Pending.insert_of_has⟩,
    fun p q s _ ha => ⟨step_dropPending ha, Pending.has_erase s.pending p q⟩⟩

/-- The three conditions of R188. -/
theorem takeEnabled_iff (s : State) (p : Pendable) :
    s.takeEnabled p = true ↔
      s.pending.has p = true ∧ s.haltingAllowed = true ∧ s.canReachPreciseState = true :=
  ⟨haltingAllowed_of_takeEnabled, fun ⟨hpend, hallowed, hp⟩ => by
    simp [State.takeEnabled, hpend, hallowed, hp]⟩

/-- Where it is enabled, the step of a take makes the entry, after the step is counted. -/
theorem step_take_of_enabled {s : State} {p : Pendable} {rest : List Move}
    (ha : s.agenda = .take p :: rest) (h : s.takeEnabled p = true) :
    step s = .next ((s.advance rest).enterDebugState p.type true) :=
  (step_actFreely ha rfl (.inr rfl)).trans (if_pos h)

theorem step_take_of_not_enabled {s : State} {p : Pendable} {rest : List Move}
    (ha : s.agenda = .take p :: rest) (h : s.takeEnabled p = false) :
    step s = .next (s.advance rest) :=
  (step_actFreely ha rfl (.inr rfl)).trans (if_neg (ne_true_of_eq_false h))

/-- Settles O30: the three conditions enable the step, and each is needed. -/
theorem takePendingTakesOnlyWhenEnabled : Obligations.TakePendingTakesOnlyWhenEnabled := by
  refine fun p s rest ha => ⟨fun hpend hallowed hp => ?_, fun hfails => ?_⟩
  · rw [step_take_of_enabled ha ((takeEnabled_iff s p).mpr ⟨hpend, hallowed, hp⟩),
      ← Pending.eraseType_type]
    rfl
  · refine step_take_of_not_enabled ha ?_
    rcases hfails with h | h | h <;> simp [State.takeEnabled, h]

/-- The generation of an asynchronous event pends its type, in every state (R187). -/
theorem generate_of_pendable {e : Event} {p : Pendable} (ha : e.asynchronous = true)
    (hp : e.type.pendable = some p) (s : State) : generate e s = .next (s.pendEvent p) := by
  obtain ⟨q, hq, -, hgen⟩ := generate_asynchronous ha s
  obtain rfl : p = q := Option.some.inj (hp.symm.trans hq)
  exact hgen

/-- So does every row of the table for the event, whatever the conditions. -/
theorem exec_of_pendable {i : Instr} {e : Event} {c : Conditions} {p : Pendable}
    (hi : i.eventAndConditions = some (e, c)) (ha : e.asynchronous = true)
    (hp : e.type.pendable = some p) (s : State) : exec i s = .next (s.pendEvent p) :=
  (exec_eq_generate_of_asynchronous hi ha).trans (generate_of_pendable ha hp s)

/-- Settles O26: the generation of the two events and their rows pend their types. -/
theorem asynchronousEventsAlwaysPended : Obligations.AsynchronousEventsAlwaysPended :=
  fun s => ⟨generate_of_pendable (p := .externalDebugRequest) rfl rfl s,
    generate_of_pendable (p := .osUnlockCatch) rfl rfl s,
    fun _ _ hi => exec_of_pendable (p := .externalDebugRequest) hi rfl rfl s,
    fun _ _ hi => exec_of_pendable (p := .osUnlockCatch) hi rfl rfl s⟩

end Machine

end Sys2Proof
end

section
/-! What a step does to the record of an entry to Debug state (60_exceptions.md R194 to R196). -/

namespace Sys2Proof.Machine

/-- `t` is in Debug state exactly if `s` is, with the same recorded cause and precision. -/
def EntryRecordKept (s t : State) : Prop :=
  t.halted = s.halted ∧ t.entryCause = s.entryCause ∧ t.entryImprecise = s.entryImprecise

/-- A change leaves the entry record as it is. -/
theorem EntryRecordKept.change (s : State) (c : Control) : EntryRecordKept s (s.change c) := by
  obtain ⟨hhalted, -, -, -, hcause, himprecise, -⟩ := change_frame s c
  exact ⟨hhalted, hcause, himprecise⟩

/-- A step that changes no control either enters Debug state precisely, where halting is allowed, or
leaves the entry record as it is. -/
theorem Effect.entry_cases {s t : State} (h : Effect s t) :
    (s.haltingAllowed = true ∧ t.entryImprecise = false) ∨ EntryRecordKept s t := by
  cases h with
  | enter u c _ _ hc => exact .inl ⟨hc.1, rfl⟩
  | hold u c _ hh _ _ he hi => exact .inr ⟨hh, he, hi⟩
  | stay _ _ hh _ he hi => exact .inr ⟨hh, he, hi⟩

/-- The same for an event in the step of a change. -/
theorem entry_cases_of_change_generate {s t : State} {c : Control} {e : Event}
    (h : generate e (s.change c) = .next t) :
    (s.halted = false ∧ t.entryImprecise = false) ∨ EntryRecordKept s t := by
  obtain ⟨hhalted, hcause, himprecise⟩ := EntryRecordKept.change s c
  rcases (Effect.of_row (exec_next_effect h)).entry_cases with ⟨ha, hi⟩ | ⟨hh, he, hi⟩
  · exact .inl ⟨hhalted.symm.trans (not_halted_of_haltingAllowed ha), hi⟩
  · exact .inr ⟨hh.trans hhalted, he.trans hcause, hi.trans himprecise⟩

/-- In Debug state every step keeps the entry record: an entry, a held one by the invariant, is for
Non-debug state, and so is a reset. -/
theorem StepEffect.entryRecordKept {s t : State} (h : StepEffect s t) (hs : s.Inv)
    (hhalted : s.halted = true) : EntryRecordKept s t := by
  have not_entering : s.halted ≠ false := by simp [hhalted]
  have prohibited : s.haltingAllowed ≠ true := fun ha =>
    not_entering (not_halted_of_haltingAllowed ha)
  cases h with
  | taken c hc _ =>
    obtain ⟨-, -, -, -, -, hheld⟩ := hs
    exact absurd (haltingAllowed_of_entryConditionOf (hheld c hc)).1 prohibited
  | plain _ he => exact he.entry_cases.resolve_left fun ⟨ha, _⟩ => prohibited ha
  | reset i b rest _ _ hn => exact absurd hn not_entering
  | imprecise rest _ he =>
    obtain ⟨-, -, -, ha⟩ := haltingAllowed_of_impreciseEntryEnabled he
    exact absurd ha prohibited
  | control c rest => exact .change (s.advance rest) c
  | during c e rest _ _ _ _ _ hg =>
    exact (entry_cases_of_change_generate (s := s.advance rest) hg).resolve_left
      fun ⟨hn, _⟩ => not_entering hn
  | writeItr | runItr | executes | request => exact ⟨rfl, rfl, rfl⟩

/-- Settles O56: read off `step_effect`. -/
theorem noStepLeavesDebugState : Obligations.NoStepLeavesDebugState := by
  intro s t hs h hhalted
  obtain ⟨hh, hrecord⟩ := (step_effect h).entryRecordKept hs hhalted
  exact ⟨hh.trans hhalted, hrecord⟩

theorem not_entersDebugState_of_entryRecordKept {s t : State} (h : EntryRecordKept s t) :
    ¬ EntersDebugState s t :=
  not_entersDebugState_of_halted_eq h.1

/-- After a reset no imprecise entry is recorded, also where a Reset Catch debug event enters. -/
theorem entryImprecise_of_reset {s t : State} {i : Init} {rest : List Move}
    (h : t = s.afterReset i rest ∨ RowEffect (s.afterReset i rest) t) :
    t.entryImprecise = false := by
  rcases h with rfl | hrow
  · rfl
  · rcases (Effect.of_row hrow).entry_cases with ⟨-, hi⟩ | ⟨-, -, hi⟩ <;> exact hi

/-- Each effect that enters Debug state writes the precision itself, and only the forced entry
writes that it is not precise. -/
theorem StepEffect.precise_or_forced {s t : State} (h : StepEffect s t)
    (he : EntersDebugState s t) :
    t.entryImprecise = false ∨
      ((∃ rest, s.agenda = .impreciseEntry :: rest) ∧ s.impreciseEntryEnabled = true) := by
  cases h with
  | taken => exact .inl rfl
  | plain _ heffect =>
    rcases heffect.entry_cases with ⟨-, hi⟩ | hkept
    · exact .inl hi
    · exact absurd he (not_entersDebugState_of_entryRecordKept hkept)
  | reset i b rest _ _ _ _ hr => exact .inl (entryImprecise_of_reset hr)
  | imprecise rest ha henabled => exact .inr ⟨⟨rest, ha⟩, henabled⟩
  | control c rest =>
    exact absurd he (not_entersDebugState_of_halted_eq (change_halted (s.advance rest) c))
  | during c e rest _ _ _ _ _ hg =>
    rcases entry_cases_of_change_generate (s := s.advance rest) hg with ⟨-, hi⟩ | hkept
    · exact .inl hi
    · exact absurd he (not_entersDebugState_of_entryRecordKept (s := s.advance rest) hkept)
  | writeItr | runItr | executes | request =>
    exact absurd he (not_entersDebugState_of_halted_eq rfl)

/-- Settles O58: an entry that is not precise is the forced one, enabled by its four conditions. -/
theorem onlyForcedEntryIsImprecise : Obligations.OnlyForcedEntryIsImprecise := by
  intro s t h he himprecise
  obtain ⟨hforced, henabled⟩ := ((step_effect h).precise_or_forced he).resolve_left
    (by simp [himprecise])
  exact ⟨hforced, haltingAllowed_of_impreciseEntryEnabled henabled⟩

/-- What a precise entry for some cause leaves of the state before it (R195). -/
def PreciselyEntered (s t : State) : Prop :=
  Keeps s t ∧ t.handed = s.handed ∧ t.cbrrqRequested = false ∧ t.held = none ∧
    ∃ c, t.entryCause = some c ∧ t.pending = s.pending.eraseType c

theorem PreciselyEntered.of_enterDebugState {s u : State} (hk : Keeps s u)
    (hd : u.handed = s.handed) (hp : u.pending = s.pending) (c : EventType) :
    PreciselyEntered s (u.enterDebugState c true) :=
  ⟨{ hk with }, hd, rfl, rfl, c, rfl, congrArg (·.eraseType c) hp⟩

/-- Each effect that enters Debug state precisely is `EnterDebugState` on a state with the controls,
the exceptions handed over and `Pending` as they were, but for a reset and a change together with an
event. -/
theorem StepEffect.preciselyEntered {s t : State} (h : StepEffect s t) (he : EntersDebugState s t)
    (hprecise : t.entryImprecise = false) (hduring : ∀ c e rest, s.agenda ≠ .during c e :: rest)
    (hreset : ∀ i b rest, s.agenda ≠ .reset i b :: rest) : PreciselyEntered s t := by
  cases h with
  | taken c => exact .of_enterDebugState (s := s) (u := s.tickOn) (by constructor <;> rfl) rfl rfl c
  | plain _ heffect =>
    cases heffect with
    | enter u c hk _ _ hp hd => exact .of_enterDebugState hk hd hp c
    | hold u c _ hh => exact absurd he (not_entersDebugState_of_halted_eq hh)
    | stay _ _ hh => exact absurd he (not_entersDebugState_of_halted_eq hh)
  | reset i b rest _ ha => exact absurd ha (hreset i b rest)
  | imprecise => cases hprecise
  | control c rest =>
    exact absurd he (not_entersDebugState_of_halted_eq (change_halted (s.advance rest) c))
  | during c e rest _ ha => exact absurd ha (hduring c e rest)
  | writeItr | runItr | executes | request =>
    exact absurd he (not_entersDebugState_of_halted_eq rfl)

/-- Settles O59: read off `step_effect`. -/
theorem preciseEntryFrame : Obligations.PreciseEntryFrame := by
  intro s t h he hprecise hduring hreset
  obtain ⟨hk, hrest⟩ := (step_effect h).preciselyEntered he hprecise hduring hreset
  exact ⟨hk.security, hk.execState, hk.authNs, hk.authS, hk.authRl, hk.authRt,
    hk.osDoubleLockLocked, hk.oslk, hk.hde, hk.mde, hk.mdbgen, hk.tdosaEl3, hk.tdosaHyp, hk.itr,
    hk.registers, hk.outstanding, hk.canReachPreciseState, hk.params, hrest⟩

end Sys2Proof.Machine
end

section
/-! The selection among the synchronous events of one instruction (60_exceptions.md R178 to R181,
R192): the candidate an event makes, the candidate selected, and what the set then does. -/

namespace Sys2Proof.Machine

/-- Settles O33: each number is an arm of `SyncPriority`. -/
theorem synchronousPriorities : Obligations.SynchronousPriorities :=
  ⟨rfl, rfl, rfl, rfl, fun _ => rfl, rfl, rfl, rfl⟩

/-! ## The outcome of an event, by the rules of the text -/

/-- What each outcome that the text can give an event says of the event and the state. -/
inductive ActionReason (s : State) (e : Event) : EventOutcome → Prop where
  | entered (ha : s.haltingAllowed = true) : ActionReason s e .enterDebugState
  | pended (ha : s.haltingAllowed = false) : ActionReason s e .pended
  | ignored : ActionReason s e .ignored
  | undefined (he : e = .haltInstruction) (hno : s.haltingAllowed = false ∨ s.hde = false) :
      ActionReason s e .treatedAsUndefined
  | exceptionModel : ActionReason s e .exceptionModel

theorem ActionReason.of_exceptionCatch {s : State} (ha : s.haltingAllowed = false)
    (p : CatchPriority) : ActionReason s (.exceptionCatch p) s.exceptionCatchNotHaltingAction := by
  unfold State.exceptionCatchNotHaltingAction
  split
  · exact .ignored
  split
  · exact .ignored
  split
  · exact .pended ha
  · exact .ignored

/-- A Halting debug event enters where halting is allowed and its own condition holds (R71), and
else is handled as R76 to R79 say; only a halt instruction and a Software Access debug event have a
condition of their own. -/
theorem ActionReason.of_halting {e : Event} (h : e.halting = true) (s : State) :
    ActionReason s e (s.haltingDebugEventAction e) := by
  unfold State.haltingDebugEventAction
  split
  case isTrue hentry => exact .entered (Bool.and_eq_true_iff.1 hentry).1
  case isFalse hno =>
    have hno := Bool.and_eq_false_iff.1 (Bool.eq_false_of_not_eq_true hno)
    cases e with
    | haltInstruction => exact .undefined rfl hno
    | softwareAccess => exact .ignored
    | exceptionCatch p => exact .of_exceptionCatch (hno.resolve_right nofun) p
    | haltingStep | externalDebugRequest | resetCatch | osUnlockCatch =>
      exact .pended (hno.resolve_right nofun)
    | breakpoint | watchpoint | breakpointInstruction | softwareStep | vectorCatch => cases h

theorem ActionReason.of_breakOrWatch (e : Event) (s : State) :
    ActionReason s e s.breakpointOrWatchpointAction := by
  unfold State.breakpointOrWatchpointAction
  split
  case isTrue hentry =>
    exact .entered (haltingAllowed_of_entryConditionOf (c := .breakpoint) hentry).1
  case isFalse => rcases bwNotHalting_cases s with ha | ha <;> rw [ha] <;> constructor

/-- Every outcome of an event has its reason (45_summary_table.md R157). -/
theorem debugEventAction_reason (s : State) (e : Event) :
    ActionReason s e (s.debugEventAction e) := by
  cases e with
  | breakpoint | watchpoint => exact .of_breakOrWatch _ s
  | breakpointInstruction | softwareStep | vectorCatch => exact .exceptionModel
  | _ => exact .of_halting rfl s

/-! The candidate an event makes, by its outcome. -/

section
variable {s : State} {e : Event}

theorem candidate_of_enterDebugState (h : s.debugEventAction e = .enterDebugState) :
    s.candidate (.event e) = some ⟨Event.competesAt e, .enter e⟩ := by
  simp [State.candidate, h]

theorem candidate_of_exceptionModel (h : s.debugEventAction e = .exceptionModel) :
    s.candidate (.event e) = some ⟨Event.competesAt e, .exceptionModel e⟩ := by
  simp [State.candidate, h]

theorem candidate_of_treatedAsUndefined (h : s.debugEventAction e = .treatedAsUndefined) :
    s.candidate (.event e) = some ⟨ExceptionKind.undefinedInstruction.place, .undefined⟩ := by
  simp [State.candidate, h]

theorem candidate_of_pended (h : s.debugEventAction e = .pended) :
    s.candidate (.event e) = none := by
  simp [State.candidate, h]

theorem candidate_of_ignored (h : s.debugEventAction e = .ignored) :
    s.candidate (.event e) = none := by
  simp [State.candidate, h]

/-- Every candidate that an event makes. -/
theorem candidate_event_cases {c : Candidate} (hc : s.candidate (.event e) = some c) :
    (s.haltingAllowed = true ∧ c = ⟨Event.competesAt e, .enter e⟩) ∨
    c = ⟨Event.competesAt e, .exceptionModel e⟩ ∨
    (e = .haltInstruction ∧ (s.haltingAllowed = false ∨ s.hde = false) ∧
      c = ⟨ExceptionKind.undefinedInstruction.place, .undefined⟩) := by
  have hreason := debugEventAction_reason s e
  simp only [State.candidate] at hc
  generalize s.debugEventAction e = a at hc hreason
  cases hreason with
  | entered ha => cases hc; exact .inl ⟨ha, rfl⟩
  | exceptionModel => cases hc; exact .inr (.inl rfl)
  | undefined he hno => cases hc; exact .inr (.inr ⟨he, hno, rfl⟩)
  | pended | ignored => cases hc

end

/-! ## The selection -/

theorem exists_mem_leading {cs : List Candidate} (h : cs ≠ []) : ∃ c, c ∈ leading cs := by
  obtain ⟨c, hc, hmin⟩ := cs.toFinset.exists_min_image Candidate.priority
    (List.toFinset_nonempty_iff cs |>.2 h)
  exact ⟨c, mem_leading.2 ⟨List.mem_toFinset.1 hc, fun d hd => hmin d (List.mem_toFinset.2 hd)⟩⟩

/-- Where there are candidates, a leading one is selected (R178). -/
theorem exists_select_of_ne_nil {cs : List Candidate} (h : cs ≠ []) (s : State) :
    ∃ c ∈ leading cs, s.select cs = some c := by
  obtain ⟨c₀, hc₀⟩ := exists_mem_leading h
  have hsome : ∃ c, s.select cs = some c := by
    unfold State.select
    split
    · simp_all
    · exact ⟨_, rfl⟩
    · exact ⟨_, rfl⟩
  obtain ⟨c, hc⟩ := hsome
  exact ⟨c, select_mem_leading hc, hc⟩

/-- A candidate before every other one is the one selected. -/
theorem select_of_forall_lt {cs : List Candidate} {c : Candidate} (hc : c ∈ cs)
    (hlt : ∀ d ∈ cs, d ≠ c → c.priority < d.priority) (s : State) : s.select cs = some c := by
  obtain ⟨d, hd, hsel⟩ := exists_select_of_ne_nil (List.ne_nil_of_mem hc) s
  obtain ⟨hmem, hmin⟩ := mem_leading.1 hd
  obtain rfl : d = c := by
    by_contra hne
    exact absurd (hlt d hmem hne) (Nat.not_lt.2 (hmin c hc))
  exact hsel

theorem select_singleton (s : State) (c : Candidate) : s.select [c] = some c :=
  select_of_forall_lt (List.mem_singleton_self c)
    (fun _ hd hne => absurd (List.mem_singleton.1 hd) hne) s

/-- The candidate of an event whose number is given by R179, or of a non-debug exception, has that
number; an UNDEFINED halt instruction alone is elsewhere. -/
theorem candidate_priority {s : State} {g : Generated} {c : Candidate} {n : Nat}
    (hhalt : g = .event .haltInstruction → s.haltingAllowed = true ∧ s.hde = true)
    (hc : s.candidate g = some c) (hn : g.priority = some n) : c.priority = n := by
  cases g with
  | nonDebug place =>
    cases hc
    exact Option.some.inj hn
  | event e =>
    have hat : Event.competesAt e = n := by
      have hsync : e.syncPriority = some n := hn
      simp [Event.competesAt, hsync]
    rcases candidate_event_cases hc with ⟨-, rfl⟩ | rfl | ⟨rfl, hno, -⟩
    · exact hat
    · exact hat
    · obtain ⟨ha, hh⟩ := hhalt rfl
      simp [ha, hh] at hno

/-- The candidate of the competing event whose number is smaller than that of every other competing
one is selected (R178, R179). -/
theorem select_candidate_of_forall_lt {s : State} {gs : List Generated} {g : Generated} {n : Nat}
    {c : Candidate}
    (hhalt : .event .haltInstruction ∈ gs → s.haltingAllowed = true ∧ s.hde = true)
    (hg : g ∈ gs) (hc : s.candidate g = some c) (hn : g.priority = some n)
    (hlt : ∀ h ∈ gs, h ≠ g → (s.candidate h).isSome = true → ∃ m, h.priority = some m ∧ n < m) :
    s.select (gs.filterMap s.candidate) = some c := by
  have priority {h : Generated} {d : Candidate} {m : Nat} (hmem : h ∈ gs)
      (hd : s.candidate h = some d) (hm : h.priority = some m) : d.priority = m :=
    candidate_priority (fun heq => hhalt (heq ▸ hmem)) hd hm
  refine select_of_forall_lt (List.mem_filterMap.2 ⟨g, hg, hc⟩) (fun d hd hne => ?_) s
  obtain ⟨h, hh, hd⟩ := candidate_origin hd
  have hne' : h ≠ g := by
    rintro rfl
    exact hne (Option.some.inj (hd.symm.trans hc))
  obtain ⟨m, hm, hnm⟩ := hlt h hh hne' (by simp [hd])
  rwa [priority hg hc hn, priority hh hd hm]

/-! ## What a set of events does -/

theorem any_reservedIn_of_next {s t : State} {gs : List Generated} {trap : Bool}
    (h : s.selectSynchronous gs trap = .next t) : gs.any s.reservedIn = false := by
  by_contra hr
  rw [State.selectSynchronous, if_pos (by simpa using hr)] at h
  cases h

section
variable {s : State} {gs : List Generated} {trap : Bool}

theorem selectSynchronous_of_select_none (hr : gs.any s.reservedIn = false)
    (hsel : s.select (gs.filterMap s.candidate) = none) :
    s.selectSynchronous gs trap = .next (s.pendAll gs) := by
  simp [State.selectSynchronous, hr, hsel]

theorem selectSynchronous_of_select_some {c : Candidate} (hr : gs.any s.reservedIn = false)
    (hsel : s.select (gs.filterMap s.candidate) = some c) :
    s.selectSynchronous gs trap =
      .next (((s.pendAll gs).performTaking c.taking).trapAfter s trap) := by
  simp [State.selectSynchronous, hr, hsel]

end

/-- What is taken does not depend on the outcome recorded before it. -/
theorem performTaking_ignoreEvent (s : State) (k : Taking) :
    s.ignoreEvent.performTaking k = s.performTaking k := by
  cases k with
  | enter | exceptionModel | undefined | nonDebug => rfl

/-- Where halting is allowed nothing is pended, and the selected event is taken at once. -/
theorem selectSynchronous_of_haltingAllowed {s : State} {gs : List Generated} {trap : Bool}
    {c : Candidate} (ha : s.haltingAllowed = true) (hr : gs.any s.reservedIn = false)
    (hsel : s.select (gs.filterMap s.candidate) = some c) :
    s.selectSynchronous gs trap = .next ((s.performTaking c.taking).trapAfter s trap) := by
  rw [selectSynchronous_of_select_some hr hsel, pendAll_of_haltingAllowed ha,
    performTaking_ignoreEvent]

/-- Settles O34: a leading candidate is selected, and the numbers of R179 are the candidates'; of
the selected event alone the same is taken. -/
theorem smallestPriorityNumberSelected : Obligations.SmallestPriorityNumberSelected := by
  refine ⟨fun s cs => ⟨fun hne => ?_, fun c hc hlt => select_of_forall_lt hc hlt s⟩,
    fun s gs g n trap _ hr hhalt hg hcompetes hn hlt => ?_⟩
  · obtain ⟨c, hc, hsel⟩ := exists_select_of_ne_nil hne s
    obtain ⟨hmem, hmin⟩ := mem_leading.1 hc
    exact ⟨c, hmem, hsel, hmin⟩
  · obtain ⟨c, hc⟩ := Option.isSome_iff_exists.1 hcompetes
    have hsel := select_candidate_of_forall_lt hhalt hg hc hn hlt
    refine ⟨hsel.trans hc.symm, fun ha => ?_⟩
    have hr' : [g].any s.reservedIn = false := by simpa using List.any_eq_false.1 hr g hg
    have hsel' : s.select ([g].filterMap s.candidate) = some c := by
      simpa [hc] using select_singleton s c
    rw [selectSynchronous_of_haltingAllowed ha hr hsel,
      selectSynchronous_of_haltingAllowed ha hr' hsel']

end Sys2Proof.Machine
end

section
/-! One synchronous event of an instruction is that event, and a trapped Vector Catch exception
follows the exception it becomes (60_exceptions.md R185, R192). -/

namespace Sys2Proof.Machine

@[simp] theorem trapAfter_false (s before : State) : s.trapAfter before false = s := rfl

/-- With nothing handed over there is nothing for a Vector Catch exception to follow. -/
theorem trapAfter_of_handed_eq {s before : State} (h : s.handed = before.handed) (trap : Bool) :
    s.trapAfter before trap = s :=
  if_neg (by simp [h])

theorem trapAfter_true_of_length_ne {s before : State}
    (h : s.handed.length ≠ before.handed.length) :
    s.trapAfter before true = s.handToExceptionModel (.vectorCatch .exceptionTrapping) :=
  if_pos (by simpa using h)

theorem asynchronous_of_wellFormed {e : Event} (h : Generated.wellFormed (.event e) = true) :
    e.asynchronous = false := by
  cases e with
  | externalDebugRequest | osUnlockCatch => cases h
  | _ => rfl

/-- An event that is not to be pended, alone, leaves `Pending` as it is. -/
theorem pendAll_singleton_of_not_pended {s : State} {e : Event}
    (h : s.debugEventAction e ≠ .pended) : s.pendAll [.event e] = s.ignoreEvent := by
  simp [State.pendAll, State.pendedBy, h, State.ignoreEvent]

/-- An event that is to be pended, alone, is pended as by its own generation. -/
theorem pendAll_singleton_of_pended {s : State} {e : Event} (h : s.debugEventAction e = .pended) :
    s.pendAll [.event e] = s.perform e .pended := by
  have hp : s.pendedBy (.event e) = e.type.pendable := if_pos h
  simp only [State.perform]
  cases ht : e.type.pendable <;>
    simp [State.pendAll, hp, ht, State.pendEvent, State.ignoreEvent]

theorem reservedIn_singleton {s : State} {e : Event} (hr : s.reservedBreakpoint e = false) :
    [Generated.event e].any s.reservedIn = false := by
  simpa [State.reservedIn] using hr

/-- An event alone that competes is selected. -/
theorem selectSynchronous_singleton_of_candidate {s : State} {e : Event} {n : Nat} {k : Taking}
    {trap : Bool} (hr : s.reservedBreakpoint e = false)
    (hpend : s.debugEventAction e ≠ .pended) (hc : s.candidate (.event e) = some ⟨n, k⟩) :
    s.selectSynchronous [.event e] trap = .next ((s.performTaking k).trapAfter s trap) := by
  have hsel : s.select ([Generated.event e].filterMap s.candidate) = some ⟨n, k⟩ := by
    simpa [hc] using select_singleton s ⟨n, k⟩
  rw [selectSynchronous_of_select_some (reservedIn_singleton hr) hsel,
    pendAll_singleton_of_not_pended hpend, performTaking_ignoreEvent]

/-- An event alone that does not compete is pended or ignored. -/
theorem selectSynchronous_singleton_of_no_candidate {s : State} {e : Event} {trap : Bool}
    (hr : s.reservedBreakpoint e = false) (hc : s.candidate (.event e) = none) :
    s.selectSynchronous [.event e] trap = .next (s.pendAll [.event e]) :=
  selectSynchronous_of_select_none (reservedIn_singleton hr)
    (by simp [hc, State.select, leading])

/-- Pending hands nothing over. -/
theorem perform_pended_handed (s : State) (e : Event) :
    (s.perform e .pended).handed = s.handed := by
  simp only [State.perform]
  split <;> rfl

/-- One synchronous event alone has the effect that the text gives it, and then the trapped Vector
Catch exception its own. -/
theorem selectSynchronous_singleton {s : State} {e : Event} {trap : Bool}
    (hw : Generated.wellFormed (.event e) = true) (hr : s.reservedBreakpoint e = false) :
    s.selectSynchronous [.event e] trap =
      .next ((s.perform e (s.debugEventAction e)).trapAfter s trap) := by
  have hreason := debugEventAction_reason s e
  cases haction : s.debugEventAction e with
  | enterDebugState =>
    have henter : s.perform e .enterDebugState = s.performTaking (.enter e) :=
      if_neg (by simp [asynchronous_of_wellFormed hw])
    rw [henter]
    exact selectSynchronous_singleton_of_candidate hr (by simp [haction])
      (candidate_of_enterDebugState haction)
  | exceptionModel =>
    exact selectSynchronous_singleton_of_candidate hr (by simp [haction])
      (candidate_of_exceptionModel haction)
  | treatedAsUndefined =>
    exact selectSynchronous_singleton_of_candidate hr (by simp [haction])
      (candidate_of_treatedAsUndefined haction)
  | pended =>
    rw [selectSynchronous_singleton_of_no_candidate hr (candidate_of_pended haction),
      pendAll_singleton_of_pended haction, trapAfter_of_handed_eq (perform_pended_handed s e)]
  | ignored =>
    rw [selectSynchronous_singleton_of_no_candidate hr (candidate_of_ignored haction),
      pendAll_singleton_of_not_pended (by simp [haction])]
    exact congrArg _ (trapAfter_of_handed_eq rfl trap).symm
  | debugException =>
    rw [haction] at hreason
    cases hreason

theorem evaluate_of_not_reserved {s : State} {e : Event} (hr : s.reservedBreakpoint e = false) :
    s.evaluate e = .next (s.perform e (s.debugEventAction e)) :=
  if_neg (by simp [hr])

theorem evaluate_of_reserved {s : State} {e : Event} (hr : s.reservedBreakpoint e = true) :
    s.evaluate e = .refused .addressMismatchReserved :=
  if_pos hr

theorem selectSynchronous_singleton_of_reserved {s : State} {e : Event} {trap : Bool}
    (hr : s.reservedBreakpoint e = true) :
    s.selectSynchronous [.event e] trap = .refused .addressMismatchReserved :=
  if_pos (by simpa [State.reservedIn] using hr)

/-- One synchronous event alone is its generation, followed by the trapped Vector Catch
exception. -/
theorem selectSynchronous_singleton_eq_generate {s : State} {e : Event}
    (hw : Generated.wellFormed (.event e) = true) (trap : Bool) :
    s.selectSynchronous [.event e] trap = mapNext (·.trapAfter s trap) (generate e s) := by
  rw [generate_eq_evaluate]
  cases hr : s.reservedBreakpoint e with
  | true => rw [selectSynchronous_singleton_of_reserved hr, evaluate_of_reserved hr]; rfl
  | false => rw [selectSynchronous_singleton hw hr, evaluate_of_not_reserved hr]; rfl

/-- What an event hands over comes after what was handed over before it. -/
theorem handed_eq_append_of_generate {e : Event} {s t : State} (h : generate e s = .next t) :
    ∃ l, t.handed = s.handed ++ l := by
  have kept {u : State} (hu : u.handed = s.handed) : ∃ l, u.handed = s.handed ++ l :=
    ⟨[], by simp [hu]⟩
  cases EventEffect.of_generate h with
  | entered =>
    rcases enterOrHold_cases s e.type with ⟨-, he⟩ | ⟨-, he⟩ <;> exact kept (by simp [he])
  | pended | ignored => exact kept rfl
  | handed _ =>
    rcases handToExceptionModel_cases s e with ⟨-, he⟩ | ⟨-, he⟩ <;> rw [he]
    · exact ⟨_, rfl⟩
    · exact kept rfl
  | undefined _ => exact ⟨_, rfl⟩

/-- An event that hands something over makes the list of those handed over longer. -/
theorem handed_length_ne_of_generate {e : Event} {s t : State} (h : generate e s = .next t)
    (hne : t.handed ≠ s.handed) : t.handed.length ≠ s.handed.length := by
  obtain ⟨l, hl⟩ := handed_eq_append_of_generate h
  intro hlength
  have hnil : l = [] := by simpa [hl] using hlength
  exact hne (by simp [hl, hnil])

/-- Settles O35: the Vector Catch exception follows exactly where the event hands an exception
over. -/
theorem oneEventOfAnInstructionIsThatEvent : Obligations.OneEventOfAnInstructionIsThatEvent := by
  intro e s hw
  simp only [selectSynchronous_singleton_eq_generate hw]
  refine ⟨?_, fun t h hne => ?_, fun hsame => ?_⟩
  · cases generate e s <;> rfl
  · rw [h]
    exact congrArg _ (trapAfter_true_of_length_ne (handed_length_ne_of_generate h hne))
  · cases h : generate e s with
    | next t => exact congrArg _ (trapAfter_of_handed_eq (hsame t h) true)
    | fault | refused => rfl

end Sys2Proof.Machine
end

section
/-! Sets of events: the choice of R184, the events pended where halting is prohibited (R182), and
what becomes of those that are not selected (60_exceptions.md R192; 92_eei_decisions.md D30). -/

namespace Sys2Proof.Machine

/-! ## A breakpoint and an Address Matching Vector Catch exception -/

/-- A candidate is selected, and the set does what is taken for it, where halting is allowed and
some event competes. -/
theorem exists_selectSynchronous_next {s : State} {gs : List Generated} {trap : Bool}
    (ha : s.haltingAllowed = true) (hr : gs.any s.reservedIn = false)
    (hne : gs.filterMap s.candidate ≠ []) :
    ∃ g ∈ gs, ∃ c, s.candidate g = some c ∧
      s.selectSynchronous gs trap = .next ((s.performTaking c.taking).trapAfter s trap) := by
  obtain ⟨c, hc, hsel⟩ := exists_select_of_ne_nil hne s
  obtain ⟨g, hg, hgc⟩ := candidate_origin (mem_leading.1 hc).1
  exact ⟨g, hg, c, hgc, selectSynchronous_of_haltingAllowed ha hr hsel⟩

theorem candidate_breakpoint_of_entry {s : State} (h : s.haltOnBreakpointOrWatchpoint = true)
    (t : BreakpointType) :
    s.candidate (.event (.breakpoint t)) = some ⟨10, .enter (.breakpoint t)⟩ := by
  have haction : s.debugEventAction (.breakpoint t) = .enterDebugState := if_pos h
  exact candidate_of_enterDebugState haction

theorem candidate_vectorCatch (s : State) :
    s.candidate (.event (.vectorCatch .addressMatching)) =
      some ⟨10, .exceptionModel (.vectorCatch .addressMatching)⟩ := rfl

/-- Settles O36: both events compete, and the one selected is taken. -/
theorem breakpointOrVectorCatchChosen : Obligations.BreakpointOrVectorCatchChosen := by
  intro s gs hgs hhde ha ho hp
  have hentry : s.haltOnBreakpointOrWatchpoint = true := by
    simp [State.haltOnBreakpointOrWatchpoint, hhde, ha, ho]
  have hbp := candidate_breakpoint_of_entry hentry .other
  have hr : gs.any s.reservedIn = false := by rcases hgs with rfl | rfl <;> rfl
  have hne : gs.filterMap s.candidate ≠ [] := by
    rcases hgs with rfl | rfl <;> simp [hbp, candidate_vectorCatch]
  obtain ⟨g, hg, c, hc, hnext⟩ := exists_selectSynchronous_next (trap := false) ha hr hne
  rw [trapAfter_false] at hnext
  have hg : g = .event (.breakpoint .other) ∨ g = .event (.vectorCatch .addressMatching) := by
    rcases hgs with rfl | rfl
    · simpa using hg
    · simpa [or_comm] using hg
  refine ⟨_, hnext, ?_⟩
  rcases hg with rfl | rfl
  · cases hbp.symm.trans hc
    simp only [State.performTaking]
    rw [enterOrHold_precise hp]
    exact .inl ⟨rfl, rfl, rfl, rfl⟩
  · cases (candidate_vectorCatch s).symm.trans hc
    refine .inr ⟨not_halted_of_haltingAllowed ha, ?_⟩
    simp only [State.performTaking]
    rcases handToExceptionModel_cases s (.vectorCatch .addressMatching) with ⟨-, he⟩ | ⟨-, he⟩ <;>
      rw [he]
    · exact .inl ⟨rfl, rfl⟩
    · exact .inr ⟨rfl, rfl⟩

/-! ## Where halting is prohibited -/

/-- Where halting is prohibited a Halting Step and a Reset Catch debug event have the outcome of
being pended (R182). -/
theorem debugEventAction_of_prohibited {s : State} {e : Event} (ha : s.haltingAllowed = false)
    (he : e = .haltingStep ∨ e = .resetCatch) : s.debugEventAction e = .pended := by
  rcases he with rfl | rfl <;>
    simp [State.debugEventAction, State.haltingDebugEventAction, ha, State.notEnteringAction]

/-- An event of the set that is to be pended is pending before the selection. -/
theorem has_pendAll {s : State} {gs : List Generated} {e : Event} {p : Pendable}
    (he : .event e ∈ gs) (haction : s.debugEventAction e = .pended)
    (hp : e.type.pendable = some p) : (s.pendAll gs).pending.has p = true := by
  have hpend : s.pendedBy (.event e) = some p := (if_pos haction).trans hp
  exact Pending.has_foldl_insert_of_mem (List.mem_filterMap.2 ⟨.event e, he, hpend⟩) s.pending

/-- An entry competes only where halting is allowed. -/
theorem haltingAllowed_of_candidate_enter {s : State} {g : Generated} {n : Nat} {e : Event}
    (h : s.candidate g = some ⟨n, .enter e⟩) : s.haltingAllowed = true := by
  cases g with
  | nonDebug place => cases h
  | event e' =>
    rcases candidate_event_cases h with ⟨ha, -⟩ | hc | ⟨-, -, hc⟩
    · exact ha
    · cases hc
    · cases hc

theorem trapAfter_pending (s before : State) (trap : Bool) :
    (s.trapAfter before trap).pending = s.pending := by
  unfold State.trapAfter
  split <;> rfl

/-- Where halting is prohibited, what is taken leaves `Pending` as it was before the selection. -/
theorem pending_of_selectSynchronous_prohibited {s t : State} {gs : List Generated} {trap : Bool}
    (ha : s.haltingAllowed = false) (h : s.selectSynchronous gs trap = .next t) :
    t.pending = (s.pendAll gs).pending := by
  rcases selectSynchronous_next h with rfl | ⟨⟨n, k⟩, hc, rfl⟩
  · rfl
  rw [trapAfter_pending]
  cases k with
  | enter e =>
    obtain ⟨g, -, hg⟩ := candidate_origin (mem_leading.1 hc).1
    exact absurd (haltingAllowed_of_candidate_enter hg) (by simp [ha])
  | exceptionModel | undefined | nonDebug => rfl

/-- Events that make no candidate can be left out of the set. -/
theorem filterMap_candidate_filter {s : State} {p : Generated → Bool} (gs : List Generated)
    (h : ∀ g, p g = false → s.candidate g = none) :
    (gs.filter p).filterMap s.candidate = gs.filterMap s.candidate := by
  rw [List.filterMap_filter]
  refine List.filterMap_congr fun g _ => ?_
  cases hp : p g with
  | true => rfl
  | false => exact (h g hp).symm

/-- Settles O37: both events are to be pended, so that they are pending and make no candidate. -/
theorem prohibitedStepAndResetCatchPended : Obligations.ProhibitedStepAndResetCatchPended := by
  intro s t gs trap ha h
  have hstep : s.debugEventAction .haltingStep = .pended :=
    debugEventAction_of_prohibited ha (.inl rfl)
  have hcatch : s.debugEventAction .resetCatch = .pended :=
    debugEventAction_of_prohibited ha (.inr rfl)
  rw [pending_of_selectSynchronous_prohibited ha h]
  refine ⟨fun hg => has_pendAll hg hstep rfl, fun hg => has_pendAll hg hcatch rfl, ?_⟩
  rw [filterMap_candidate_filter]
  intro g hg
  have hg : g = .event .haltingStep ∨ g = .event .resetCatch := by
    by_contra hne
    simp_all
  rcases hg with rfl | rfl
  · exact candidate_of_pended hstep
  · exact candidate_of_pended hcatch

/-! ## The events that are not selected -/

/-- Taking an event pends nothing. -/
theorem has_of_has_performTaking {s : State} {k : Taking} {p : Pendable}
    (h : (s.performTaking k).pending.has p = true) : s.pending.has p = true := by
  cases k with
  | enter e =>
    simp only [State.performTaking] at h
    rcases enterOrHold_cases s e.type with ⟨-, he⟩ | ⟨-, he⟩ <;> rw [he] at h
    · exact Pending.has_of_has_eraseType h
    · exact h
  | exceptionModel | undefined | nonDebug => exact h

/-- Settles O38: with no candidate nothing is taken; else what is taken for the one selected, and
nothing else. -/
theorem unselectedEventsDropped : Obligations.UnselectedEventsDropped := by
  intro s t gs ha _ h
  have hr := any_reservedIn_of_next h
  have hn := not_halted_of_haltingAllowed ha
  cases hsel : s.select (gs.filterMap s.candidate) with
  | none =>
    rw [selectSynchronous_of_select_none hr hsel, pendAll_of_haltingAllowed ha] at h
    cases h
    exact ⟨fun p hp => hp, rfl, rfl, rfl⟩
  | some c =>
    rw [selectSynchronous_of_haltingAllowed ha hr hsel, trapAfter_false] at h
    cases h
    refine ⟨fun _ => has_of_has_performTaking,
      candidate_origin (mem_leading.1 (select_mem_leading hsel)).1, ?_⟩
    obtain ⟨n, k⟩ := c
    cases k with
    | enter e =>
      dsimp only [State.performTaking]
      rcases enterOrHold_cases s e.type with ⟨hp, he⟩ | ⟨hp, he⟩ <;> rw [he]
      · exact ⟨rfl, fun _ => ⟨⟨hn, rfl⟩, rfl, rfl⟩, by simp [hp]⟩
      · exact ⟨rfl, by simp [hp], fun _ => ⟨rfl, rfl⟩⟩
    | exceptionModel e =>
      dsimp only [State.performTaking]
      rcases handToExceptionModel_cases s e with ⟨hgen, he⟩ | ⟨hgen, he⟩ <;> rw [he] <;>
        simp [hgen]
    | undefined | nonDebug => exact ⟨rfl, rfl, rfl⟩

end Sys2Proof.Machine
end

section
/-! Reset and the start states it leaves (60_exceptions.md R172, R173; 70_reset_and_hazards.md R210,
R211): every start state an implementation can have meets the invariant, and a Reset Catch debug
event is evaluated on the state after the reset. -/

namespace Sys2Proof.Machine

/-! ## The start states -/

/-- The model's own `init` (notes/assumptions/2.md) is one that its parameters admit. -/
theorem resetInit_wellFormed : resetInit.wellFormed resetParams = true := rfl

/-- A start state is what a reset to its `init` leaves but for the step count, which the invariant
does not read. -/
theorem inv_ofInit {p : Params} {i : Init} (hw : i.wellFormed p = true) (agenda : List Move) :
    (State.ofInit p i agenda).Inv :=
  inv_afterReset (s := State.ofInit p i agenda) hw agenda

/-- Settles O48: the four fields are written without reading `init`. -/
theorem startStateHasNoRequest : Obligations.StartStateHasNoRequest :=
  ⟨fun _ _ _ => ⟨rfl, rfl, rfl, rfl⟩, resetParams, resetInit, resetInit_wellFormed, rfl⟩

/-- Settles O55: the reset state is the start state of a well-formed `init`. -/
theorem resetMeetsTheInvariant : Obligations.ResetMeetsTheInvariant :=
  inv_ofInit resetInit_wellFormed []

/-! ## The step of a reset -/

/-- A reset in Non-debug state, whether or not an entry is held: the state it leaves, on which a
Reset Catch debug event that it generates is evaluated. -/
theorem step_reset {s : State} {i : Init} {b : Bool} {rest : List Move}
    (ha : s.agenda = .reset i b :: rest) (hn : s.halted = false)
    (hw : i.wellFormed s.params = true) :
    step s =
      if b then generate .resetCatch (s.afterReset i rest) else .next (s.afterReset i rest) :=
  (step_actFreely ha hw (.inr rfl)).trans (if_neg (ne_true_of_eq_false hn))

/-- A Reset Catch debug event enters Debug state where halting is allowed and the entry can be
precise. -/
theorem generate_resetCatch_of_haltingAllowed {u : State} (ha : u.haltingAllowed = true)
    (hp : u.canReachPreciseState = true) :
    generate .resetCatch u = .next (u.enterDebugState .resetCatch true) :=
  (generate_of_entryConditionOf (e := .resetCatch) rfl ha nofun).trans
    (congrArg _ (enterOrHold_precise hp .resetCatch))

/-- Settles O47: halting is allowed or prohibited in the state that the reset leaves, not in the one
before it. -/
theorem resetCatchTakenOrPended : Obligations.ResetCatchTakenOrPended := by
  intro i b s rest ha hn hw
  have hstep := step_reset ha hn hw
  refine ⟨s.afterReset i rest, rfl, ?without, ?taken, ?pended⟩
  case without =>
    rintro rfl
    exact hstep
  case taken =>
    rintro rfl hallowed hp
    exact hstep.trans (generate_resetCatch_of_haltingAllowed hallowed hp)
  case pended =>
    rintro rfl hprohibited
    exact hstep.trans (generate_otherHalting_of_not_entry hprohibited .resetCatch)

end Sys2Proof.Machine
end
